-- ==== Sys2Proof/Word.lean ====
section
/-! DEFINITION. The words of the block and the fixed sets of names its operands are drawn from (spec/00_scope.md R9,
R12; spec/30_encoding.md). -/

namespace Sys2Proof

/-- One byte: an SPI exchange, an I2C byte, a bridge register (R11, R77). -/
abbrev Byte := BitVec 8

/-- A 16-bit word: bus command, event, micro-operation, divisor (R100, R9). -/
abbrev Half := BitVec 16

/-- A 32-bit host operation word (R101). -/
abbrev Word := BitVec 32

/-- A channel of a bridge device, 0 to 3 (R9). -/
abbrev Chan := BitVec 2

/-- A register of a bridge channel, 0 to 31 (R9). -/
abbrev Reg := BitVec 5

/-- A 7-bit I2C target address (R9). -/
abbrev Target := BitVec 7

/-- A baud rate as the host operation word carries it (R105). -/
abbrev Rate := BitVec 24

/-- The three bridge devices A, B, C, indices 0, 1, 2 (R20). Index 3 is no device (R108). -/
inductive Device where
  | devA
  | devB
  | devC
deriving DecidableEq, Repr, Inhabited

/-- The index of a device in a two-bit field (R20). -/
def Device.bits : Device → BitVec 2
  | .devA => 0#2
  | .devB => 1#2
  | .devC => 2#2

/-- The device a two-bit field names; 3 names none (R108). -/
def Device.ofBits (b : BitVec 2) : Option Device :=
  if b = 0#2 then some .devA
  else if b = 1#2 then some .devB
  else if b = 2#2 then some .devC
  else none

/-- The direction of an SPI frame (R110). -/
inductive Dir where
  | read
  | write
deriving DecidableEq, Repr, Inhabited

/-- `direction=1` for write, `0` for read (R110). -/
def Dir.bit : Dir → BitVec 1
  | .read => 0#1
  | .write => 1#1

/-- The direction a bit stands for (R110). -/
def Dir.ofBit (b : BitVec 1) : Dir := if b = 1#1 then .write else .read

/-- The four delays by name (R116, R345). -/
inductive DelayId where
  | tCss
  | tCsh
  | tResetSettle
  | tPllLock
deriving DecidableEq, Repr, Inhabited

/-- The delay ids 0 to 3 (R116). -/
def DelayId.bits : DelayId → BitVec 2
  | .tCss => 0#2
  | .tCsh => 1#2
  | .tResetSettle => 2#2
  | .tPllLock => 3#2

/-- The delay a two-bit id names (R116). -/
def DelayId.ofBits (b : BitVec 2) : DelayId :=
  if b = 0#2 then .tCss
  else if b = 1#2 then .tCsh
  else if b = 2#2 then .tResetSettle
  else .tPllLock

end Sys2Proof
end

