-- ==== Sys2Proof/Config.lean ====
section
/-! DEFINITION. What an implementation fixes and what the spec leaves open (spec/00_scope.md R10, R16;
spec/92_eei_decisions.md section 2). Constants without a body: nothing in Lean can evaluate them, so a claim about them
holds for every value. The constraints the spec puts on them are built in where they are used
(Machine/Operands.lean). -/

namespace Sys2Proof.Config

/-- The n-th `draw()` of a byte (R16). DESIGN CHOICE, safe: notes/assumptions/5.md. -/
opaque freeByte : Nat → Byte

/-- The n-th `draw()` of a flag (R16). DESIGN CHOICE, safe: notes/assumptions/5.md. -/
opaque freeBit : Nat → Bool

/-- `RAW_READ_DEVICE`, the device SPI_READ is hard-wired to (R185). -/
opaque rawReadDevice : Device

/-- The entries of `BAUD_TABLE` other than the one the source fixes and the one it excludes (R230). -/
opaque baudEntry : Rate → Option Half

/-- The bring-up steps that write parameter lists (R234). -/
inductive CfgStep where
  | channelReset
  | clockSources
  | pllConfig
  | lineFormat
  | fifoTriggers
  | modeRegisters
  | flowControl
  | interruptEnables
deriving DecidableEq, Repr

/-- The first entry of `CFG_WRITES_k`: every list is non-empty (R234). -/
opaque cfgFirst : CfgStep → Reg × Byte

/-- The entries of `CFG_WRITES_k` after the first (R234). -/
opaque cfgRest : CfgStep → List (Reg × Byte)

/-- `REG_DIVLSB` (R240). -/
opaque regDivLsb : Reg

/-- `REG_DIVMSB` before it is kept apart from `REG_DIVLSB` (R240; spec/92_eei_decisions.md section 2). -/
opaque regDivMsbWish : Reg

/-- `REG_THR` (R261). -/
opaque regThr : Reg

/-- `REG_RHR` (R261). -/
opaque regRhr : Reg

/-- `REG_RXLVL` (R261). -/
opaque regRxlvl : Reg

/-- `REG_LSR` (R261). -/
opaque regLsr : Reg

/-- The four error bits of the line-status register (R50). -/
inductive LsrError where
  | framing
  | parity
  | overrun
  | lineBreak
deriving DecidableEq, Repr

/-- `LSR_FE_BIT`, `LSR_PE_BIT`, `LSR_OE_BIT`, `LSR_BI_BIT` before they are kept apart (R50). -/
opaque lsrBitWish : LsrError → Fin 8

/-- `T_CSS`, `T_CSH`, `T_RESET_SETTLE`, `T_PLL_LOCK` (R345). No step reads them: the model keeps no time
(notes/assumptions/18.md). -/
opaque delayDuration : DelayId → Nat

/-- `BOOT_RATE` (R248). -/
opaque bootRate : Rate

/-- `BRIDGE_MODEL` (R52). -/
inductive BridgeModel where
  | unconstrained
  | testDouble
deriving DecidableEq, Repr

/-- `UNLISTED_EVENT_POLICY` (R151). -/
inductive UnlistedPolicy where
  | fault
  | ignore
deriving DecidableEq, Repr

/-- The values of `IDLE_STRAY_CLEARS_DONE` (R150) and `ISDONE_CONSUMES` (R142). -/
inductive ClearPolicy where
  | no
  | yes
  | either
deriving DecidableEq, Repr

/-- The parameters to which spec/92_eei_decisions.md section 2 gives a default. They stand in State, so that a claim
about every state is a claim for every setting, and no step writes them (notes/assumptions/7.md). -/
structure Options where
  /-- `BRIDGE_MODEL` (R52). -/
  bridgeModel : BridgeModel
  /-- `UNLISTED_EVENT_POLICY` (R151). -/
  unlistedEvent : UnlistedPolicy
  /-- `IDLE_STRAY_CLEARS_DONE` (R150). -/
  idleStrayClearsDone : ClearPolicy
  /-- `ISDONE_CONSUMES` (R142). -/
  isdoneConsumes : ClearPolicy
  /-- `DUMMY_BYTE` (R111). -/
  dummyByte : Byte
deriving DecidableEq, Repr

/-- The defaults of spec/92_eei_decisions.md section 2. -/
def defaultOptions : Options where
  bridgeModel := .unconstrained
  unlistedEvent := .fault
  idleStrayClearsDone := .either
  isdoneConsumes := .either
  dummyByte := 0x00#8

end Sys2Proof.Config
end

