-- ==== Sys2Proof/Syntax.lean ====
section
/-! DEFINITION. The instructions: one constructor per row of spec/opcode_table.json, in the table's order, and the ports
their words come in by (spec/30_encoding.md R100). -/

namespace Sys2Proof

/-- The 30 rows of the opcode table. -/
inductive Instr where
  /-- I2C_START, format I (R103, R141). -/
  | i2cStart (t : Target) (r : Byte)
  /-- I2C_ISDONE, format N (R102, R142). -/
  | i2cIsdone
  /-- I2C_GETBYTE, format N (R102, R143). -/
  | i2cGetbyte
  /-- SPI_WRITE, format S (R104, R184). -/
  | spiWrite (d : BitVec 2) (c : Chan) (r : Reg) (v : Byte)
  /-- SPI_READ, format S without DATA (R104, R109, R185). -/
  | spiRead (d : BitVec 2) (c : Chan) (r : Reg)
  /-- UART_INIT, format B (R105, R233). -/
  | uartInit (d : BitVec 2) (rate : Rate)
  /-- UART_SENDCHAR, format S without REG (R104, R109, R262). -/
  | uartSendchar (d : BitVec 2) (c : Chan) (b : Byte)
  /-- UART_RECVCHAR (R109, R264). -/
  | uartRecvchar (d : BitVec 2) (c : Chan)
  /-- UART_AVAIL (R109, R265). -/
  | uartAvail (d : BitVec 2) (c : Chan)
  /-- UART_GETERR (R109, R266). -/
  | uartGeterr (d : BitVec 2) (c : Chan)
  /-- UART_CLRERR (R109, R267). -/
  | uartClrerr (d : BitVec 2) (c : Chan)
  /-- BAUD_LOOKUP, format B without DEV (R105, R109, R232). -/
  | baudLookup (rate : Rate)
  /-- SPI command byte of a write frame (R110). -/
  | spiFrameWrite (c : Chan) (r : Reg)
  /-- SPI command byte of a read frame (R110). -/
  | spiFrameRead (c : Chan) (r : Reg)
  /-- I2C address byte with the write bit (R112). -/
  | i2cAddrW (t : Target)
  /-- I2C address byte with the read bit (R112). -/
  | i2cAddrR (t : Target)
  /-- Bus command: start and `AddrByte(t, 0)` (R113). -/
  | bcStartW (t : Target)
  /-- Bus command: the register-address byte (R113). -/
  | bcWrite (b : Byte)
  /-- Bus command: repeated start and `AddrByte(t, 1)` (R113). -/
  | bcRstartR (t : Target)
  /-- Bus command: nack and stop (R113). -/
  | bcNackStop
  /-- Bus command: forced stop (R113). -/
  | bcStop
  /-- Event: ack (R114). -/
  | evAck
  /-- Event: nack (R114). -/
  | evNack
  /-- Event: tx-buffer-empty (R114). -/
  | evTxe
  /-- Event: rx-data-valid with its byte (R114). -/
  | evRxv (b : Byte)
  /-- Event: stop-detected (R114). -/
  | evStopd
  /-- Micro-operation: assert a chip-select line (R115, R211). -/
  | uSelect (d : BitVec 2)
  /-- Micro-operation: deassert a chip-select line (R115, R212). -/
  | uDeselect (d : BitVec 2)
  /-- Micro-operation: a named delay (R115, R345). -/
  | uDelay (id : DelayId)
  /-- Micro-operation: one byte exchange (R115, R180). -/
  | uXfer (b : Byte)
deriving DecidableEq, Repr

/-- A word together with the port it comes in by. The six encodings of R100 overlap as numbers (0x1000 is both a bus
command and a micro-operation), so the port is part of what a decoder reads. -/
inductive PortWord where
  /-- A host operation word (R101). -/
  | host (w : Word)
  /-- An SPI command byte (R110). -/
  | command (b : Byte)
  /-- An I2C address byte (R112). -/
  | address (b : Byte)
  /-- An I2C bus command word (R113). -/
  | bus (w : Half)
  /-- An I2C event word (R114). -/
  | event (w : Half)
  /-- An SPI micro-operation word (R115). -/
  | micro (w : Half)
deriving DecidableEq, Repr

end Sys2Proof
end

