-- ==== Sys2Proof/WellFormed.lean ====
section
/-! DEFINITION. Which instructions have an encoding the spec gives. The operand types rule out everything else. -/

namespace Sys2Proof

/-- The one check the operand types leave: "no `UDEV = 3` … is ever generated" (R115). A host word with `DEV = 3` is a
legal word, refused at execution (R108, R118), so it is well formed. -/
def WellFormed : Instr → Bool
  | .uSelect d => d != 3#2
  | .uDeselect d => d != 3#2
  | _ => true

end Sys2Proof
end

