-- ==== Sys2Proof/Decode.lean ====
section
/-! DEFINITION. Decoding each port's words and, after it, encoding every instruction (spec/30_encoding.md R100 to R118).
Decoding is total; a word no instruction has is rejected by name. -/

namespace Sys2Proof

/-- Why a word is no instruction. -/
inductive DecodeError where
  /-- `OP` is 0x0, 0xD, 0xE or 0xF (R107). -/
  | reservedOpcode
  /-- A must-be-zero bit of the operation's format is set (R107, R109). -/
  | mustBeZero
  /-- `EV` in 5..7, `w[7:3] ≠ 0`, or `DATA ≠ 0` with `EV ≠ 3` (R114). -/
  | reservedEvent
  /-- A bus command word outside the table of R113: never issued. -/
  | reservedBusCommand
  /-- A micro-operation word outside the table of R115, or an unlisted delay id: never generated. -/
  | reservedMicroOp
  /-- A select or deselect with `UDEV = 3`: never generated (R115). -/
  | microOpDevice
deriving DecidableEq, Repr

/-- A field put at bit `lo` of a word of `w` bits: zero-extended and shifted (R12, R101). -/
def place (w : Nat) {n : Nat} (x : BitVec n) (lo : Nat) : BitVec w := x.setWidth w <<< lo

/-! ### Composite bytes (R119) -/

/-- `CmdByte(dir, ch, reg) = (dir << 7) | (ch << 5) | reg` (R110). -/
def cmdByte (dir : Dir) (c : Chan) (r : Reg) : Byte := place 8 dir.bit 7 ||| place 8 c 5 ||| place 8 r 0

/-- The direction, channel and register a command byte names; every byte is a valid frame (R110). -/
def cmdDir (b : Byte) : Dir := Dir.ofBit (b.extractLsb' 7 1)

/-- `frame[6:5]` (R110). -/
def cmdChan (b : Byte) : Chan := b.extractLsb' 5 2

/-- `frame[4:0]` (R110). -/
def cmdReg (b : Byte) : Reg := b.extractLsb' 0 5

/-- `AddrByte(t, rw) = (t << 1) | rw` (R112). -/
def addrByte (t : Target) (rw : BitVec 1) : Byte := place 8 t 1 ||| place 8 rw 0

/-! ### Host operation words -/

/-- `OP = w[31:28]` (R101). -/
def hostOpcode (w : Word) : BitVec 4 := w.extractLsb' 28 4

/-- `DEV = w[27:26]` (R104, R105). -/
def hostDev (w : Word) : BitVec 2 := w.extractLsb' 26 2

/-- `CH = w[25:24]` (R104). -/
def hostChan (w : Word) : Chan := w.extractLsb' 24 2

/-- `REG = w[20:16]` (R104). -/
def hostReg (w : Word) : Reg := w.extractLsb' 16 5

/-- `DATA = w[7:0]` (R104). -/
def hostData (w : Word) : Byte := w.extractLsb' 0 8

/-- `TADDR = w[22:16]` (R103). -/
def hostTarget (w : Word) : Target := w.extractLsb' 16 7

/-- `IREG = w[15:8]` (R103). -/
def hostIreg (w : Word) : Byte := w.extractLsb' 8 8

/-- `RATE = w[23:0]` (R105). -/
def hostRate (w : Word) : Rate := w.extractLsb' 0 24

/-- The must-be-zero bits of each operation, as R118 lists them; `none` for a reserved `OP` (R107). -/
def zeroMask (op : BitVec 4) : Option Word :=
  if op = 0x1#4 then some 0x0F8000FF#32
  else if op = 0x2#4 then some 0x0FFFFFFF#32
  else if op = 0x3#4 then some 0x0FFFFFFF#32
  else if op = 0x4#4 then some 0x00E0FF00#32
  else if op = 0x5#4 then some 0x00E0FFFF#32
  else if op = 0x6#4 then some 0x03000000#32
  else if op = 0x7#4 then some 0x00FFFF00#32
  else if op = 0x8#4 then some 0x00FFFFFF#32
  else if op = 0x9#4 then some 0x00FFFFFF#32
  else if op = 0xA#4 then some 0x00FFFFFF#32
  else if op = 0xB#4 then some 0x00FFFFFF#32
  else if op = 0xC#4 then some 0x0F000000#32
  else none

/-- The operation `OP` names, with its fields (R106, R109). Used only where `zeroMask` names the operation. -/
def hostFields (w : Word) : Instr :=
  let op := hostOpcode w
  if op = 0x1#4 then .i2cStart (hostTarget w) (hostIreg w)
  else if op = 0x2#4 then .i2cIsdone
  else if op = 0x3#4 then .i2cGetbyte
  else if op = 0x4#4 then .spiWrite (hostDev w) (hostChan w) (hostReg w) (hostData w)
  else if op = 0x5#4 then .spiRead (hostDev w) (hostChan w) (hostReg w)
  else if op = 0x6#4 then .uartInit (hostDev w) (hostRate w)
  else if op = 0x7#4 then .uartSendchar (hostDev w) (hostChan w) (hostData w)
  else if op = 0x8#4 then .uartRecvchar (hostDev w) (hostChan w)
  else if op = 0x9#4 then .uartAvail (hostDev w) (hostChan w)
  else if op = 0xA#4 then .uartGeterr (hostDev w) (hostChan w)
  else if op = 0xB#4 then .uartClrerr (hostDev w) (hostChan w)
  else .baudLookup (hostRate w)

/-- `decode(w)` of R118. -/
def decodeHost (w : Word) : Except DecodeError Instr :=
  match zeroMask (hostOpcode w) with
  | none => .error .reservedOpcode
  | some m => if w &&& m = 0#32 then .ok (hostFields w) else .error .mustBeZero

/-! ### The other ports -/

/-- An SPI command byte; all 256 values are frames (R110). -/
def decodeCommand (b : Byte) : Instr :=
  match cmdDir b with
  | .write => .spiFrameWrite (cmdChan b) (cmdReg b)
  | .read => .spiFrameRead (cmdChan b) (cmdReg b)

/-- An I2C address byte; every target address is allowed (R112). -/
def decodeAddress (b : Byte) : Instr :=
  if b.extractLsb' 0 1 = 0#1 then .i2cAddrW (b.extractLsb' 1 7) else .i2cAddrR (b.extractLsb' 1 7)

/-- `BC = w[15:12]`, `w[11:8] = 0`, `BYTE = w[7:0]` (R113). The byte of a start carries the write bit, that of a
repeated start the read bit, and a stop carries 0. -/
def decodeBus (w : Half) : Except DecodeError Instr :=
  let bc := w.extractLsb' 8 8
  let byte : Byte := w.extractLsb' 0 8
  let rw : BitVec 1 := w.extractLsb' 0 1
  let t : Target := w.extractLsb' 1 7
  if bc = 0x10#8 then (if rw = 0#1 then .ok (.bcStartW t) else .error .reservedBusCommand)
  else if bc = 0x20#8 then .ok (.bcWrite byte)
  else if bc = 0x30#8 then (if rw = 1#1 then .ok (.bcRstartR t) else .error .reservedBusCommand)
  else if bc = 0x40#8 then (if byte = 0#8 then .ok .bcNackStop else .error .reservedBusCommand)
  else if bc = 0x50#8 then (if byte = 0#8 then .ok .bcStop else .error .reservedBusCommand)
  else .error .reservedBusCommand

/-- `EV = w[2:0]`, `w[7:3] = 0`, `DATA = w[15:8]`, which is 0 but for RXV (R114). -/
def decodeEvent (w : Half) : Except DecodeError Instr :=
  let data : Byte := w.extractLsb' 8 8
  let low : Byte := w.extractLsb' 0 8
  if low = 3#8 then .ok (.evRxv data)
  else if data = 0#8 then
    if low = 0#8 then .ok .evAck
    else if low = 1#8 then .ok .evNack
    else if low = 2#8 then .ok .evTxe
    else if low = 4#8 then .ok .evStopd
    else .error .reservedEvent
  else .error .reservedEvent

/-- `UOP = w[15:12]`, `w[11:10] = 0`, `UDEV = w[9:8]`, `ARG = w[7:0]`, an unused field being 0 (R115). -/
def decodeMicro (w : Half) : Except DecodeError Instr :=
  let uop := w.extractLsb' 10 6
  let udev : BitVec 2 := w.extractLsb' 8 2
  let arg : Byte := w.extractLsb' 0 8
  if uop = 0x04#6 then
    if arg = 0#8 then (if udev = 3#2 then .error .microOpDevice else .ok (.uSelect udev))
    else .error .reservedMicroOp
  else if uop = 0x08#6 then
    if arg = 0#8 then (if udev = 3#2 then .error .microOpDevice else .ok (.uDeselect udev))
    else .error .reservedMicroOp
  else if uop = 0x0C#6 then
    if udev = 0#2 ∧ w.extractLsb' 2 6 = 0#6 then .ok (.uDelay (DelayId.ofBits (w.extractLsb' 0 2)))
    else .error .reservedMicroOp
  else if uop = 0x10#6 then (if udev = 0#2 then .ok (.uXfer arg) else .error .reservedMicroOp)
  else .error .reservedMicroOp

/-- The instruction a port reads from a word (R100). -/
def decode : PortWord → Except DecodeError Instr
  | .host w => decodeHost w
  | .command b => .ok (decodeCommand b)
  | .address b => .ok (decodeAddress b)
  | .bus w => decodeBus w
  | .event w => decodeEvent w
  | .micro w => decodeMicro w

/-! ### Encoding -/

/-- Format N (R102). -/
def formatN (op : BitVec 4) : Word := place 32 op 28

/-- Format I (R103). -/
def formatI (op : BitVec 4) (t : Target) (r : Byte) : Word := place 32 op 28 ||| place 32 t 16 ||| place 32 r 8

/-- Format S (R104). -/
def formatS (op : BitVec 4) (d : BitVec 2) (c : Chan) (r : Reg) (v : Byte) : Word :=
  place 32 op 28 ||| place 32 d 26 ||| place 32 c 24 ||| place 32 r 16 ||| place 32 v 0

/-- Format B (R105). -/
def formatB (op : BitVec 4) (d : BitVec 2) (rate : Rate) : Word :=
  place 32 op 28 ||| place 32 d 26 ||| place 32 rate 0

/-- A bus command word (R113). -/
def busWord (bc : BitVec 4) (b : Byte) : Half := place 16 bc 12 ||| place 16 b 0

/-- An event word (R114). -/
def eventWord (ev : BitVec 3) (data : Byte) : Half := place 16 data 8 ||| place 16 ev 0

/-- A micro-operation word (R115). -/
def microWord (uop : BitVec 4) (udev : BitVec 2) (arg : Byte) : Half :=
  place 16 uop 12 ||| place 16 udev 8 ||| place 16 arg 0

/-- `0x1000 | (d << 8)` (R211). -/
def selectWord (d : BitVec 2) : Half := microWord 0x1#4 d 0#8

/-- `0x2000 | (d << 8)` (R212). -/
def deselectWord (d : BitVec 2) : Half := microWord 0x2#4 d 0#8

/-- U_DELAY with its id in ARG (R115, R116). -/
def delayWord (id : DelayId) : Half := microWord 0x3#4 0#2 (place 8 id.bits 0)

/-- U_XFER with its byte in ARG (R115). -/
def xferWord (b : Byte) : Half := microWord 0x4#4 0#2 b

/-- The word of an instruction, with its port (R100 to R116). -/
def encode : Instr → PortWord
  | .i2cStart t r => .host (formatI 0x1#4 t r)
  | .i2cIsdone => .host (formatN 0x2#4)
  | .i2cGetbyte => .host (formatN 0x3#4)
  | .spiWrite d c r v => .host (formatS 0x4#4 d c r v)
  | .spiRead d c r => .host (formatS 0x5#4 d c r 0#8)
  | .uartInit d rate => .host (formatB 0x6#4 d rate)
  | .uartSendchar d c b => .host (formatS 0x7#4 d c 0#5 b)
  | .uartRecvchar d c => .host (formatS 0x8#4 d c 0#5 0#8)
  | .uartAvail d c => .host (formatS 0x9#4 d c 0#5 0#8)
  | .uartGeterr d c => .host (formatS 0xA#4 d c 0#5 0#8)
  | .uartClrerr d c => .host (formatS 0xB#4 d c 0#5 0#8)
  | .baudLookup rate => .host (formatB 0xC#4 0#2 rate)
  | .spiFrameWrite c r => .command (cmdByte .write c r)
  | .spiFrameRead c r => .command (cmdByte .read c r)
  | .i2cAddrW t => .address (addrByte t 0#1)
  | .i2cAddrR t => .address (addrByte t 1#1)
  | .bcStartW t => .bus (busWord 0x1#4 (addrByte t 0#1))
  | .bcWrite b => .bus (busWord 0x2#4 b)
  | .bcRstartR t => .bus (busWord 0x3#4 (addrByte t 1#1))
  | .bcNackStop => .bus (busWord 0x4#4 0#8)
  | .bcStop => .bus (busWord 0x5#4 0#8)
  | .evAck => .event (eventWord 0#3 0#8)
  | .evNack => .event (eventWord 1#3 0#8)
  | .evTxe => .event (eventWord 2#3 0#8)
  | .evRxv b => .event (eventWord 3#3 b)
  | .evStopd => .event (eventWord 4#3 0#8)
  | .uSelect d => .micro (selectWord d)
  | .uDeselect d => .micro (deselectWord d)
  | .uDelay id => .micro (delayWord id)
  | .uXfer b => .micro (xferWord b)

/-- The word of a host operation, for the information a fault records (R290); 0 for an instruction of another port. -/
def hostWordOf (i : Instr) : Word :=
  match encode i with
  | .host w => w
  | _ => 0#32

/-! ### A table row's word without its port -/

/-- The port a 16-bit table word is read at when only its bits are known. DESIGN CHOICE, safe
(notes/assumptions/20.md): the three 16-bit encodings share words, so a word that is some row's match value goes to that
row, and any other word to the first of micro-operation, bus command, event that has it. -/
def tablePort16 (w : Half) : PortWord :=
  if w = 0x3001#16 ∨ w = 0x4000#16 then .bus w
  else if (decodeMicro w).isOk then .micro w
  else if (decodeBus w).isOk then .bus w
  else .event w

/-- The port word of `nbits` table bits `w` (notes/assumptions/20.md). A byte is an SPI command byte but for 0x00 and
0x01, which are read as I2C address bytes. -/
def tablePort (nbits w : Nat) : Option PortWord :=
  if nbits = 32 then some (.host (BitVec.ofNat 32 w))
  else if nbits = 16 then some (tablePort16 (BitVec.ofNat 16 w))
  else if nbits = 8 then
    some (if w ≤ 1 then .address (BitVec.ofNat 8 w) else .command (BitVec.ofNat 8 w))
  else none

/-- The instruction whose table bits are `w`, bit 0 the least significant. -/
def decodeTableWord (nbits w : Nat) : Option Instr :=
  match tablePort nbits w with
  | none => none
  | some p => (decode p).toOption

end Sys2Proof
end

