-- ==== Sys2Proof/Machine/State.lean ====
section
/-! DEFINITION. The state of the block as plain data (spec/10_state.md), its value after reset
(spec/70_reset_and_hazards.md R330), and the reasons a step can stop. -/

namespace Sys2Proof.Machine

/-- One entry per bridge device (R40, R44, R45). -/
structure PerDevice (α : Type) where
  devA : α
  devB : α
  devC : α
deriving DecidableEq, Repr

/-- One entry per channel of a device (R45). -/
structure PerChannel (α : Type) where
  ch0 : α
  ch1 : α
  ch2 : α
  ch3 : α
deriving DecidableEq, Repr

/-- `st.i2cState` (R32). The `Error` state of the source is never entered, so it is no constructor (C2). Its three bits are
`I2cState.bits` (Machine/Operands.lean). -/
inductive I2cState where
  | idle
  | sendAddr
  | sendReg
  | read
  | waitStop
deriving DecidableEq, Repr

/-- One entry of `st.i2cLog`: a bus command with its BYTE field (R38, R113). -/
inductive BusCmd where
  | startW (byte : Byte)
  | write (byte : Byte)
  | rstartR (byte : Byte)
  | nackStop
  | stop
deriving DecidableEq, Repr

/-- One entry of `st.spiLog` (R43). -/
inductive SpiEvent where
  | select (d : Device)
  | deselect (d : Device)
  | delay (id : DelayId)
  | xfer (tx rx : Byte)
deriving DecidableEq, Repr

/-- The information a fault records (R290). -/
inductive FaultInfo where
  /-- The word: codes 0x01, 0x02, 0x04 and 0x05. -/
  | word (w : Word)
  /-- The device asked and the selected set: code 0x03. -/
  | selection (asked : Device) (selected : List Device)
  /-- The engine's state and the event word: code 0x06. -/
  | stateAndEvent (st : I2cState) (e : Half)
  /-- The event word: code 0x07. -/
  | event (e : Half)
deriving DecidableEq, Repr

/-- One entry of `st.faults` (R47, R290). Its code is `FaultRecord.code` and its information `FaultRecord.info`
(Machine/Operands.lean). -/
inductive FaultRecord where
  /-- 0x01: the word. -/
  | illegalOp (w : Word)
  /-- 0x02: the word. -/
  | invalidDevice (w : Word)
  /-- 0x03: the device asked and the selected set. -/
  | csConflict (asked : Device) (selected : List Device)
  /-- 0x04: the word. -/
  | spiReentry (w : Word)
  /-- 0x05: the word. -/
  | channelNotConfigured (w : Word)
  /-- 0x06: the engine's state and the event word. -/
  | i2cUnlistedEvent (st : I2cState) (e : Half)
  /-- 0x07: the event word. -/
  | i2cReservedEvent (e : Half)
deriving DecidableEq, Repr

/-- What a host operation returns (R117). Its number is `HostResult.value` (Machine/Operands.lean). -/
inductive HostResult where
  /-- I2C_START, SPI_WRITE, UART_SENDCHAR, UART_CLRERR. -/
  | nothing
  /-- I2C_ISDONE, UART_AVAIL. -/
  | bit (b : Bool)
  /-- I2C_GETBYTE, SPI_READ, UART_RECVCHAR, UART_GETERR. -/
  | byte (b : Byte)
  /-- UART_INIT: `INIT_OK = 0`. -/
  | initOk
  /-- UART_INIT: `INIT_UNSUPPORTED = 1`. -/
  | initUnsupported
  /-- BAUD_LOOKUP: the divisor. -/
  | divisor (div : Half)
  /-- BAUD_LOOKUP: `UNSUPPORTED`. -/
  | unsupported
deriving DecidableEq, Repr

/-- How a bridge operation makes its result from `st.spiRx` when its procedure ends. -/
inductive ReturnKind where
  /-- No result: SPI_WRITE, UART_SENDCHAR, UART_CLRERR (R117). -/
  | nothing
  /-- The byte received: SPI_READ, UART_RECVCHAR (R185, R264). -/
  | received
  /-- Whether the byte received is not zero: UART_AVAIL (R265). -/
  | nonZero
  /-- The byte received under `LSR_ERR_MASK`: UART_GETERR (R266). -/
  | maskedErrors
  /-- `INIT_OK`: UART_INIT (R233). -/
  | initOk
deriving DecidableEq, Repr

/-- One call or one decision of a bridge operation's procedure (R181, R233, R234, R264). -/
inductive HostCall where
  /-- `FrameWrite(d, c, r, v)` (R182). -/
  | frameWrite (d : Device) (c : Chan) (r : Reg) (v : Byte)
  /-- `FrameRead(d, c, r)` (R183). -/
  | frameRead (d : Device) (c : Chan) (r : Reg)
  /-- `Delay(id)` (R234). -/
  | delay (id : DelayId)
  /-- `st.chDivisor[d][c] <- div` (R233). -/
  | recordDivisor (d : Device) (c : Chan) (div : Half)
  /-- `st.devConfigured[d] <- 1` (R233). -/
  | markConfigured (d : Device)
  /-- `if lvl = 0: return 0` (R264). -/
  | testLevel
  /-- The end of the procedure: `st.spiBusy <- 0` and the result (R181). -/
  | finish (k : ReturnKind)
deriving DecidableEq, Repr

/-- How far the frame on the SPI bus has come. The spec implies it: a frame acts on the test double at its second
exchange (R189), with the channel and register its first exchange carried (R110). DEDUCED, safe:
notes/assumptions/13.md. -/
inductive FramePhase where
  /-- No device is selected. -/
  | closed
  /-- A device is selected and no byte has been exchanged. -/
  | opened
  /-- The command byte has been exchanged. -/
  | commanded (dir : Dir) (c : Chan) (r : Reg)
  /-- The payload byte has been exchanged. -/
  | ended
deriving DecidableEq, Repr

/-- Whose step comes next (R320, R321). DESIGN CHOICE, safe: notes/assumptions/1.md and notes/assumptions/4.md. -/
inductive Turn where
  /-- The host issues its next word, or goes on in the operation it is blocked in. -/
  | host
  /-- The I2C engine consumes the oldest pending event. -/
  | engine
  /-- The SPI sequencer carries out its next micro-operation; for a U_XFER the SPI environment completes the
  exchange (R188). -/
  | sequencer
  /-- A word put directly on a port by a second caller or a test bench; no agent of the spec takes such a turn. -/
  | bench (p : PortWord)
deriving DecidableEq, Repr

/-- Why the machine has no step. -/
inductive Fault where
  /-- Raised by `step` in a halted state: "no agent has a step" (R300, U30). Safe: the machine stops. -/
  | halted
  /-- Raised by `step` when the agenda is empty: nobody has been given a turn (R321). Safe: the machine stops. -/
  | noTurn
deriving DecidableEq, Repr

/-- A word the model gives no meaning. -/
inductive Refusal where
  /-- Raised by `exec` for an instruction without a meaning yet. Safe. -/
  | notModelled (mnemonic : String)
  /-- Raised by `step` for a bus command word outside R113: "never issued". Safe: notes/assumptions/9.md. -/
  | busCommandNeverIssued (w : Half)
  /-- Raised by `step` for a micro-operation word outside R115: "is ever generated". Safe: notes/assumptions/9.md. -/
  | microOpNeverGenerated (w : Half)
  /-- Raised by the meanings of U_SELECT and U_DESELECT for `UDEV = 3`, never generated (R115). Safe:
  notes/assumptions/9.md. -/
  | microOpDeviceThree
deriving DecidableEq, Repr

/-- Everything the spec gives the block, and the model's own fields at the end. -/
structure State where
  /-- `st.i2cState` (R32). -/
  i2cState : I2cState
  /-- `st.i2cTarget`, `none` for bottom (R33). -/
  i2cTarget : Option Target
  /-- `st.i2cReg`, `none` for bottom (R34). -/
  i2cReg : Option Byte
  /-- `st.i2cLastByte`, `none` for bottom (R35). -/
  i2cLastByte : Option Byte
  /-- `st.i2cDone` (R36). -/
  i2cDone : Bool
  /-- `st.i2cNackEnd`, which no host operation returns (R37). -/
  i2cNackEnd : Bool
  /-- `st.i2cLog`, oldest first (R38). -/
  i2cLog : List BusCmd
  /-- `st.csSel[0..2]` (R40). -/
  csSel : PerDevice Bool
  /-- `st.spiBusy` (R41). -/
  spiBusy : Bool
  /-- `st.spiSeq`: the micro-operation words left (R41, R115). -/
  spiSeq : List Half
  /-- `st.spiRx`, `none` for bottom (R42). -/
  spiRx : Option Byte
  /-- `st.spiLog`, oldest first (R43). -/
  spiLog : List SpiEvent
  /-- `st.devConfigured[0..2]` (R44). -/
  devConfigured : PerDevice Bool
  /-- `st.chDivisor[0..2][0..3]`, `none` for bottom (R45). -/
  chDivisor : PerDevice (PerChannel (Option Half))
  /-- `st.faults`, a set: no record twice (R47, R290). -/
  faults : List FaultRecord
  /-- `st.halted` (R47). -/
  halted : Bool
  /-- `st.bridgeStore[d][c][r]` as (address, byte) pairs in canonical form, an unlisted cell being bottom (R53). -/
  bridgeStore : List Host.Cell
  /-- The pending I2C events, oldest first (R54, R305). -/
  events : List Half
  /-- What is left of the procedure the host is blocked in (R181). -/
  hostOp : List HostCall
  /-- The frame on the SPI bus (R189). -/
  spiFrame : FramePhase
  /-- MODEL's own: the words the host has still to issue (R31). -/
  hostWords : List Word
  /-- MODEL's own: what finished host operations returned, oldest first (R117). -/
  results : List HostResult
  /-- MODEL's own: whose turns come next (R321). -/
  agenda : List Turn
  /-- MODEL's own: how many free values have been drawn (R16). -/
  draws : Nat
  /-- MODEL's own: the parameters the spec gives a default (R10). -/
  options : Config.Options
deriving DecidableEq, Repr

end Sys2Proof.Machine

/-- The machine right after reset (R330): the values of that table, and for the model's own fields those of
notes/assumptions/3.md. -/
def Sys2Proof.Machine.State.reset : Sys2Proof.Machine.State where
  i2cState := .idle
  i2cTarget := none
  i2cReg := none
  i2cLastByte := none
  i2cDone := false
  i2cNackEnd := false
  i2cLog := []
  csSel := ⟨false, false, false⟩
  spiBusy := false
  spiSeq := []
  spiRx := none
  spiLog := []
  devConfigured := ⟨false, false, false⟩
  chDivisor := ⟨⟨none, none, none, none⟩, ⟨none, none, none, none⟩, ⟨none, none, none, none⟩⟩
  faults := []
  halted := false
  bridgeStore := []
  events := []
  hostOp := []
  spiFrame := .closed
  hostWords := []
  results := []
  agenda := []
  draws := 0
  options := Config.defaultOptions
end

