-- ==== Sys2Proof/Machine/Operands.lean ====
section
/-! DEFINITION. Operands and parameters: indexed state, the numbers of the engine's states, of faults and of results, the
divisor's bytes, the baud table, the bring-up lists, the bridge register numbers (spec/00_scope.md R9, R10;
spec/30_encoding.md R117, R119; spec/60_exceptions.md R290). -/

namespace Sys2Proof.Machine

/-! ### State indexed by device and channel -/

/-- `x[d]` for a device `d` (R13). -/
def PerDevice.get {α : Type} (x : PerDevice α) : Device → α
  | .devA => x.devA
  | .devB => x.devB
  | .devC => x.devC

/-- `x[d] <- v` (R13). -/
def PerDevice.set {α : Type} (x : PerDevice α) (d : Device) (v : α) : PerDevice α :=
  match d with
  | .devA => { x with devA := v }
  | .devB => { x with devB := v }
  | .devC => { x with devC := v }

/-- `x[c]` for a channel `c` (R13). -/
def PerChannel.get {α : Type} (x : PerChannel α) (c : Chan) : α :=
  if c = 0#2 then x.ch0 else if c = 1#2 then x.ch1 else if c = 2#2 then x.ch2 else x.ch3

/-- `x[c] <- v` (R13). -/
def PerChannel.set {α : Type} (x : PerChannel α) (c : Chan) (v : α) : PerChannel α :=
  if c = 0#2 then { x with ch0 := v }
  else if c = 1#2 then { x with ch1 := v }
  else if c = 2#2 then { x with ch2 := v }
  else { x with ch3 := v }

/-- The three bridge devices in the order A, B, C (R20). -/
def allDevices : List Device := [.devA, .devB, .devC]

/-- The four channels in the order of the bring-up (R233). -/
def allChannels : List Chan := [0#2, 1#2, 2#2, 3#2]

/-- `SelectedSet()` of a set of chip-select lines (R214). -/
def linesSelected (cs : PerDevice Bool) : List Device := allDevices.filter cs.get

/-- `SelectedSet()` (R214). -/
def selectedSet (s : State) : List Device := linesSelected s.csSel

/-! ### The engine's state in its three bits -/

/-- The encoding of `st.i2cState` (R32). -/
def I2cState.bits : I2cState → BitVec 3
  | .idle => 0#3
  | .sendAddr => 1#3
  | .sendReg => 2#3
  | .read => 3#3
  | .waitStop => 4#3

/-- The state three bits encode; 5, 6 and 7 are reserved and never written (R32). -/
def I2cState.ofBits (b : BitVec 3) : Option I2cState :=
  if b = 0#3 then some .idle
  else if b = 1#3 then some .sendAddr
  else if b = 2#3 then some .sendReg
  else if b = 3#3 then some .read
  else if b = 4#3 then some .waitStop
  else none

/-! ### A fault's code and information -/

/-- The code of R290's table. -/
def FaultRecord.code : FaultRecord → Byte
  | .illegalOp _ => 0x01#8
  | .invalidDevice _ => 0x02#8
  | .csConflict _ _ => 0x03#8
  | .spiReentry _ => 0x04#8
  | .channelNotConfigured _ => 0x05#8
  | .i2cUnlistedEvent _ _ => 0x06#8
  | .i2cReservedEvent _ => 0x07#8

/-- The information recorded with the code (R290). -/
def FaultRecord.info : FaultRecord → FaultInfo
  | .illegalOp w => .word w
  | .invalidDevice w => .word w
  | .csConflict asked selected => .selection asked selected
  | .spiReentry w => .word w
  | .channelNotConfigured w => .word w
  | .i2cUnlistedEvent st e => .stateAndEvent st e
  | .i2cReservedEvent e => .event e

/-- The record of a pair `(code, info)`; none for the unused codes 0x00 and 0x08 to 0xFF, nor for information that is not
the code's own (R290). -/
def FaultRecord.ofEntry (code : Byte) (info : FaultInfo) : Option FaultRecord :=
  match info with
  | .word w =>
    if code = 0x01#8 then some (.illegalOp w)
    else if code = 0x02#8 then some (.invalidDevice w)
    else if code = 0x04#8 then some (.spiReentry w)
    else if code = 0x05#8 then some (.channelNotConfigured w)
    else none
  | .selection asked selected => if code = 0x03#8 then some (.csConflict asked selected) else none
  | .stateAndEvent st e => if code = 0x06#8 then some (.i2cUnlistedEvent st e) else none
  | .event e => if code = 0x07#8 then some (.i2cReservedEvent e) else none

/-! ### A result's number -/

/-- The number a host operation returns (R117): a bit with 1 for true, a byte, `INIT_OK = 0`, `INIT_UNSUPPORTED = 1`, a
divisor. An operation without a result has none, and `UNSUPPORTED` is a value distinct from every divisor (D39). -/
def HostResult.value : HostResult → Option Nat
  | .nothing => none
  | .bit b => some b.toNat
  | .byte b => some b.toNat
  | .initOk => some 0
  | .initUnsupported => some 1
  | .divisor div => some div.toNat
  | .unsupported => none

/-! ### The divisor and the baud table -/

/-- `div[7:0]` (R74). -/
def divLow (div : Half) : Byte := div.extractLsb' 0 8

/-- `div[15:8]` (R74). -/
def divHigh (div : Half) : Byte := div.extractLsb' 8 8

/-- `BaudLookup(rate)`; `none` for `UNSUPPORTED` (R231). `BAUD_TABLE[9600] = 26`, 1 is no key, keys start at 1, and
every other entry is open (R230). -/
def baudLookup (rate : Rate) : Option Half :=
  if rate = 9600#24 then some 26#16
  else if rate = 1#24 ∨ rate = 0#24 then none
  else Config.baudEntry rate

/-! ### Bring-up parameters -/

/-- `CFG_WRITES_k`, never empty (R234). -/
def cfgWrites (k : Config.CfgStep) : List (Reg × Byte) := Config.cfgFirst k :: Config.cfgRest k

/-- `REG_DIVMSB`, distinct from `REG_DIVLSB` (spec/92_eei_decisions.md section 2). -/
def regDivMsb : Reg :=
  if Config.regDivMsbWish = Config.regDivLsb then Config.regDivLsb + 1#5 else Config.regDivMsbWish

/-! ### The line-status error bits -/

/-- `x`, or the first bit number not in `used` if `x` is there. -/
def freshBit (used : List (Fin 8)) (x : Fin 8) : Fin 8 :=
  if x ∈ used then ((List.finRange 8).filter (fun y => decide (y ∉ used))).headD x else x

/-- Four distinct bit numbers out of four wishes (R50). -/
def distinctBits (fe pe oe bi : Fin 8) : List (Fin 8) :=
  let p := freshBit [fe] pe
  let o := freshBit [fe, p] oe
  let b := freshBit [fe, p, o] bi
  [fe, p, o, b]

/-- `LSR_FE_BIT`, `LSR_PE_BIT`, `LSR_OE_BIT`, `LSR_BI_BIT`: any four distinct bits (R50). -/
def lsrErrorBits : List (Fin 8) :=
  distinctBits (Config.lsrBitWish .framing) (Config.lsrBitWish .parity) (Config.lsrBitWish .overrun)
    (Config.lsrBitWish .lineBreak)

/-- The mask with exactly the listed bits set (R50). -/
def maskOfBits (bits : List (Fin 8)) : Byte := bits.foldl (fun m b => m ||| (1#8 <<< b.val)) 0#8

end Sys2Proof.Machine
end

