-- ==== Sys2Proof/Machine/Flags.lean ====
section
/-! DEFINITION. The status flags (spec/10_state.md R48): the completion flag's policies and the line-status mask. The
block has no condition codes. -/

namespace Sys2Proof.Machine

/-- `st.i2cDone` after I2C_ISDONE returned `done` (R142); `drawn` is the value of `draw()`. -/
def doneAfterPoll (policy : Config.ClearPolicy) (done drawn : Bool) : Bool :=
  match done, policy with
  | false, _ => false
  | true, .no => true
  | true, .yes => false
  | true, .either => drawn

/-- Whether I2C_ISDONE draws (R142). -/
def pollDraws (policy : Config.ClearPolicy) (done : Bool) : Bool :=
  done && decide (policy = .either)

/-- `st.i2cDone` after a stray event in Idle (R150); under `either` it is drawn from {done, 0}. -/
def doneAfterStray (policy : Config.ClearPolicy) (done drawn : Bool) : Bool :=
  match policy with
  | .no => done
  | .yes => false
  | .either => if drawn then done else false

/-- Whether a stray event in Idle draws (R150). -/
def strayDraws (policy : Config.ClearPolicy) : Bool := decide (policy = .either)

/-- `LSR_ERR_MASK` (R50). -/
def lsrErrMask : Byte := maskOfBits lsrErrorBits

/-- `lsr & LSR_ERR_MASK` (R266). -/
def lineErrors (lsr : Byte) : Byte := lsr &&& lsrErrMask

end Sys2Proof.Machine
end

