-- ==== Sys2Proof/Machine/Memory.lean ====
section
/-! DEFINITION. The test double's register file as a canonical list of cells (spec/20_memory.md R70;
spec/10_state.md R53). -/

namespace Sys2Proof.Machine

/-- The number of cells, 3 × 4 × 32 (R70). -/
def cellCount : Nat := 384

/-- The address of cell (d, c, r): 128 d + 32 c + r (R70). The numbering is the model's: notes/assumptions/11.md. -/
def cellAddr (d : Device) (c : Chan) (r : Reg) : Nat := 128 * d.bits.toNat + 32 * c.toNat + r.toNat

/-- The byte at an address; a cell nothing has written is bottom (R53). -/
def Memory.read (m : List Host.Cell) (a : Nat) : Option Byte :=
  match m with
  | [] => none
  | (b, v) :: rest => if a = b then some v else Memory.read rest a

/-- The list with the byte at an address set, addresses still rising (R53). -/
def Memory.write (m : List Host.Cell) (a : Nat) (v : Byte) : List Host.Cell :=
  match m with
  | [] => [(a, v)]
  | (b, w) :: rest =>
    if a < b then (a, v) :: (b, w) :: rest
    else if a = b then (a, v) :: rest
    else (b, w) :: Memory.write rest a v

/-- Canonical form: addresses strictly rising and inside the register space. No entry can equal bottom, what an
unlisted address reads as. -/
abbrev Memory.wf (m : List Host.Cell) : Prop :=
  m.Pairwise (fun p q => p.1 < q.1) ∧ ∀ p ∈ m, p.1 < cellCount

end Sys2Proof.Machine
end

