-- ==== Sys2Proof/Machine/Ops.lean ====
section
/-! DEFINITION. The operations every meaning is made of: taking a fault, returning a result, issuing a bus command, the
chip-select lines, the byte exchange, the frame procedures, and the host's procedure.

There is no return from a fault (R301), so no such operation stands beside `raiseFault`; only reset leaves the halted
state. -/

namespace Sys2Proof.Machine

/-! ### Taking a fault -/

/-- `raise Fault(code)(info)`: the record joins the set and the block halts; nothing else changes (R17, R300). -/
def raiseFault (f : FaultRecord) (s : State) : State :=
  { s with faults := if f ∈ s.faults then s.faults else s.faults ++ [f], halted := true }

/-! ### Results -/

/-- `return v` to the host (R17, R117). -/
def giveResult (r : HostResult) (s : State) : State := { s with results := s.results ++ [r] }

/-- Count `n` free values as drawn (R16; notes/assumptions/5.md). -/
def drawn (n : Nat) (s : State) : State := { s with draws := s.draws + n }

/-! ### The I2C byte/event interface -/

/-- `I2cIssue(cmd)` (R15). -/
def i2cIssue (c : BusCmd) (s : State) : State := { s with i2cLog := s.i2cLog ++ [c] }

/-- `st.i2cReg`; a free value where it holds none, which no run reaches (R34; notes/assumptions/17.md). -/
def regOrFree (s : State) : Byte := s.i2cReg.getD (Config.freeByte s.draws)

/-- `st.i2cTarget`; a free value where it holds none, which no run reaches (R33; notes/assumptions/17.md). -/
def targetOrFree (s : State) : Target := s.i2cTarget.getD ((Config.freeByte s.draws).setWidth 7)

/-! ### Chip-select -/

/-- `Select(d)` (R211). -/
def selectLine (d : Device) (s : State) : State :=
  if (selectedSet s).isEmpty then
    { s with
      csSel := s.csSel.set d true
      spiLog := s.spiLog ++ [.select d]
      spiFrame := .opened }
  else raiseFault (.csConflict d (selectedSet s)) s

/-- `Deselect(d)` (R212). The frame ends when no device is left selected. -/
def deselectLine (d : Device) (s : State) : State :=
  { s with
    csSel := s.csSel.set d false
    spiLog := s.spiLog ++ [.deselect d]
    spiFrame := if (linesSelected (s.csSel.set d false)).isEmpty then .closed else s.spiFrame }

/-- A U_DELAY step (R345). -/
def logDelay (id : DelayId) (s : State) : State := { s with spiLog := s.spiLog ++ [.delay id] }

/-! ### The byte exchange -/

/-- The cell the exchange under way acts on, with its direction: the second exchange of a frame on the selected device
(R189). -/
def frameCell (s : State) : Option (Dir × Nat) :=
  match s.spiFrame, (selectedSet s).head? with
  | .commanded dir c r, some d => some (dir, cellAddr d c r)
  | _, _ => none

/-- The byte received: the test double's reply in a read frame's second exchange, and `draw()` otherwise (R180, R189). -/
def exchangeReply (s : State) : Byte :=
  match s.options.bridgeModel, frameCell s with
  | .testDouble, some (.read, a) => (Memory.read s.bridgeStore a).getD (Config.freeByte s.draws)
  | _, _ => Config.freeByte s.draws

/-- The test double's store after the exchange of `b` (R189); no change under Unconstrained. -/
def exchangeStore (b : Byte) (s : State) : List Host.Cell :=
  match s.options.bridgeModel, frameCell s with
  | .testDouble, some (.write, a) => Memory.write s.bridgeStore a b
  | _, _ => s.bridgeStore

/-- The frame after the exchange of `b`: the first byte is the command byte, the second the payload (R111). -/
def exchangePhase (b : Byte) : FramePhase → FramePhase
  | .closed => .closed
  | .opened => .commanded (cmdDir b) (cmdChan b) (cmdReg b)
  | .commanded _ _ _ => .ended
  | .ended => .ended

/-- `Xfer(b)` (R15, R180). -/
def exchangeByte (b : Byte) (s : State) : State :=
  { s with
    spiRx := some (exchangeReply s)
    spiLog := s.spiLog ++ [.xfer b (exchangeReply s)]
    spiFrame := exchangePhase b s.spiFrame
    bridgeStore := exchangeStore b s
    draws := s.draws + 1 }

/-! ### The frame procedures -/

/-- The six micro-operations of a frame that sends the two bytes `b1`, `b2` to device `d` (R182, R183). -/
def frameWords (d : Device) (b1 b2 : Byte) : List Half :=
  [selectWord d.bits, delayWord .tCss, xferWord b1, xferWord b2, delayWord .tCsh, deselectWord d.bits]

/-- `FrameWrite(d, c, r, v)` (R182). -/
def frameWriteWords (d : Device) (c : Chan) (r : Reg) (v : Byte) : List Half :=
  frameWords d (cmdByte .write c r) v

/-- `FrameRead(d, c, r)` with the dummy byte (R183). -/
def frameReadWords (d : Device) (c : Chan) (r : Reg) (dummy : Byte) : List Half :=
  frameWords d (cmdByte .read c r) dummy

/-! ### The host's procedure -/

/-- The byte the last exchange received; a free value where none has been, which no run reaches (R42;
notes/assumptions/17.md). -/
def rxOrFree (s : State) : Byte := s.spiRx.getD (Config.freeByte s.draws)

/-- The result of an operation that ends (R117). -/
def resultOf (k : ReturnKind) (rx : Byte) : HostResult :=
  match k with
  | .nothing => .nothing
  | .received => .byte rx
  | .nonZero => .bit (decide (rx ≠ 0#8))
  | .maskedErrors => .byte (lineErrors rx)
  | .initOk => .initOk

/-- The end of a procedure: `st.spiBusy <- 0` and the result is returned (R181). -/
def endProcedure (r : HostResult) (s : State) : State :=
  giveResult r { s with spiBusy := false, hostOp := [] }

/-- The procedure's next call or decision, between two micro-operation lists (R181, R320). A call hands its list to the
sequencer. -/
def runCalls (calls : List HostCall) (s : State) : State :=
  match calls with
  | [] => s
  | .frameWrite d c r v :: rest => { s with spiSeq := frameWriteWords d c r v, hostOp := rest }
  | .frameRead d c r :: rest => { s with spiSeq := frameReadWords d c r s.options.dummyByte, hostOp := rest }
  | .delay id :: rest => { s with spiSeq := [delayWord id], hostOp := rest }
  | .recordDivisor d c div :: rest =>
    { s with chDivisor := s.chDivisor.set d ((s.chDivisor.get d).set c (some div)), hostOp := rest }
  | .markConfigured d :: rest => { s with devConfigured := s.devConfigured.set d true, hostOp := rest }
  | .testLevel :: rest =>
    if rxOrFree s = 0#8 then endProcedure (.byte 0#8) s else { s with hostOp := rest }
  | .finish k :: _ => endProcedure (resultOf k (rxOrFree s)) s

/-- The start of a bridge operation: `st.spiBusy <- 1` and its first call (R41, R181). -/
def beginProcedure (calls : List HostCall) (s : State) : State := runCalls calls { s with spiBusy := true }

/-! ### The checks of a bridge operation -/

/-- The checks every bridge operation makes before any effect, in the order of R303: SPI_REENTRY (R191), then
INVALID_DEVICE (R108). `w` is the operation's word. -/
def checkBridge (w : Word) (d : BitVec 2) (s : State) (body : Device → State) : State :=
  if s.spiBusy then raiseFault (.spiReentry w) s
  else
    match Device.ofBits d with
    | none => raiseFault (.invalidDevice w) s
    | some dev => body dev

/-- The checks of a port operation: those of every bridge operation, then CHANNEL_NOT_CONFIGURED (R260). -/
def checkPort (w : Word) (d : BitVec 2) (s : State) (body : Device → State) : State :=
  checkBridge w d s fun dev =>
    if s.devConfigured.get dev then body dev else raiseFault (.channelNotConfigured w) s

end Sys2Proof.Machine
end

