-- ==== Sys2Proof/Machine/I2cBus.lean ====
section
/-! DEFINITION. The bus commands the engine issues and the address bytes they carry (spec/30_encoding.md R112, R113;
spec/00_scope.md R15). To issue a command is to append it to `st.i2cLog`; the rest of an engine step is in
Machine/I2cEvents.lean. DEDUCED: notes/assumptions/15.md and notes/assumptions/16.md. -/

namespace Sys2Proof.Machine

/-- I2C_ADDR_W: the address byte with the write bit, which a start condition carries (R112, R113). -/
def execI2cAddrW (t : Target) (s : State) : Host.Outcome State Fault Refusal :=
  .next (i2cIssue (.startW (addrByte t 0#1)) s)

/-- I2C_ADDR_R: the address byte with the read bit, which a repeated start carries (R112, R113). -/
def execI2cAddrR (t : Target) (s : State) : Host.Outcome State Fault Refusal :=
  .next (i2cIssue (.rstartR (addrByte t 1#1)) s)

/-- BC_START_W (R113). -/
def execBcStartW (t : Target) (s : State) : Host.Outcome State Fault Refusal :=
  .next (i2cIssue (.startW (addrByte t 0#1)) s)

/-- BC_WRITE (R113). -/
def execBcWrite (b : Byte) (s : State) : Host.Outcome State Fault Refusal :=
  .next (i2cIssue (.write b) s)

/-- BC_RSTART_R (R113). -/
def execBcRstartR (t : Target) (s : State) : Host.Outcome State Fault Refusal :=
  .next (i2cIssue (.rstartR (addrByte t 1#1)) s)

/-- BC_NACK_STOP (R113). -/
def execBcNackStop (s : State) : Host.Outcome State Fault Refusal := .next (i2cIssue .nackStop s)

/-- BC_STOP (R113). -/
def execBcStop (s : State) : Host.Outcome State Fault Refusal := .next (i2cIssue .stop s)

end Sys2Proof.Machine
end

