-- ==== Sys2Proof/Machine/I2cEvents.lean ====
section
/-! DEFINITION. The event steps of the I2C master engine (spec/40_i2c_master.md R144 to R152). -/

namespace Sys2Proof.Machine

/-- Any event but a nack in Idle: consumed, and the completion flag as the policy says (R150). -/
def strayEvent (s : State) : State :=
  drawn (if strayDraws s.options.idleStrayClearsDone then 1 else 0)
    { s with i2cDone := doneAfterStray s.options.idleStrayClearsDone s.i2cDone (Config.freeBit s.draws) }

/-- A (state, event) pair the transition table does not list, outside Idle (R151). -/
def unlistedEvent (e : Half) (s : State) : State :=
  match s.options.unlistedEvent with
  | .fault => raiseFault (.i2cUnlistedEvent s.i2cState e) s
  | .ignore => s

/-- SendAddr and ack: the register-address byte (R145). -/
def writeRegisterAddress (s : State) : State :=
  { i2cIssue (.write (regOrFree s)) s with i2cState := .sendReg }

/-- SendReg and tx-buffer-empty or ack: repeated start with the read bit (R146). -/
def repeatStart (s : State) : State :=
  { i2cIssue (.rstartR (addrByte (targetOrFree s) 1#1)) s with i2cState := .read }

/-- Read and rx-data-valid: the byte is captured, then nack and stop (R147). -/
def captureByte (b : Byte) (s : State) : State :=
  { i2cIssue .nackStop { s with i2cLastByte := some b } with i2cState := .waitStop }

/-- WaitStop and stop-detected: the transaction is complete (R148). -/
def completeTransaction (s : State) : State :=
  { s with i2cDone := true, i2cNackEnd := false, i2cState := .idle }

/-- EV_ACK (R145, R146, R150, R151). -/
def execEvAck (s : State) : Host.Outcome State Fault Refusal :=
  .next
    (match s.i2cState with
    | .idle => strayEvent s
    | .sendAddr => writeRegisterAddress s
    | .sendReg => repeatStart s
    | .read => unlistedEvent (eventWord 0#3 0#8) s
    | .waitStop => unlistedEvent (eventWord 0#3 0#8) s)

/-- EV_NACK in any state (R149). -/
def execEvNack (s : State) : Host.Outcome State Fault Refusal :=
  .next { i2cIssue .stop { s with i2cDone := true, i2cNackEnd := true } with i2cState := .idle }

/-- EV_TXE (R146, R150, R151). -/
def execEvTxe (s : State) : Host.Outcome State Fault Refusal :=
  .next
    (match s.i2cState with
    | .idle => strayEvent s
    | .sendAddr => unlistedEvent (eventWord 2#3 0#8) s
    | .sendReg => repeatStart s
    | .read => unlistedEvent (eventWord 2#3 0#8) s
    | .waitStop => unlistedEvent (eventWord 2#3 0#8) s)

/-- EV_RXV with byte `b` (R147, R150, R151). -/
def execEvRxv (b : Byte) (s : State) : Host.Outcome State Fault Refusal :=
  .next
    (match s.i2cState with
    | .idle => strayEvent s
    | .sendAddr => unlistedEvent (eventWord 3#3 b) s
    | .sendReg => unlistedEvent (eventWord 3#3 b) s
    | .read => captureByte b s
    | .waitStop => unlistedEvent (eventWord 3#3 b) s)

/-- EV_STOPD (R148, R150, R151). -/
def execEvStopd (s : State) : Host.Outcome State Fault Refusal :=
  .next
    (match s.i2cState with
    | .idle => strayEvent s
    | .sendAddr => unlistedEvent (eventWord 4#3 0#8) s
    | .sendReg => unlistedEvent (eventWord 4#3 0#8) s
    | .read => unlistedEvent (eventWord 4#3 0#8) s
    | .waitStop => completeTransaction s)

end Sys2Proof.Machine
end

