-- ==== Sys2Proof/Machine/I2cHost.lean ====
section
/-! DEFINITION. The host operations of the I2C master engine (spec/40_i2c_master.md R141 to R143), each one atomic step
(R86, R320). -/

namespace Sys2Proof.Machine

/-- I2C_START (R141): a new transaction from Idle; otherwise nothing changes and the host is not told. -/
def execI2cStart (t : Target) (r : Byte) (s : State) : Host.Outcome State Fault Refusal :=
  .next (giveResult .nothing
    (if s.i2cState = .idle then
      i2cIssue (.startW (addrByte t 0#1))
        { s with
          i2cDone := false
          i2cNackEnd := false
          i2cTarget := some t
          i2cReg := some r
          i2cLastByte := none
          i2cState := .sendAddr }
    else s))

/-- I2C_ISDONE (R142). -/
def execI2cIsdone (s : State) : Host.Outcome State Fault Refusal :=
  .next (giveResult (.bit s.i2cDone)
    (drawn (if pollDraws s.options.isdoneConsumes s.i2cDone then 1 else 0)
      { s with i2cDone := doneAfterPoll s.options.isdoneConsumes s.i2cDone (Config.freeBit s.draws) }))

/-- The captured byte where it means something: neither bottom nor after a nack end (R143). -/
def meaningfulByte (s : State) : Option Byte := if s.i2cNackEnd then none else s.i2cLastByte

/-- I2C_GETBYTE (R143): the captured byte, or a free value. -/
def execI2cGetbyte (s : State) : Host.Outcome State Fault Refusal :=
  .next
    (match meaningfulByte s with
    | some b => giveResult (.byte b) s
    | none => giveResult (.byte (Config.freeByte s.draws)) (drawn 1 s))

end Sys2Proof.Machine
end

