-- ==== Sys2Proof/Machine/MicroOps.lean ====
section
/-! DEFINITION. The micro-operations of the SPI sequencer (spec/30_encoding.md R115; spec/42_cs_arbiter.md R211, R212;
spec/41_spi_register_access.md R180; spec/70_reset_and_hazards.md R345). -/

namespace Sys2Proof.Machine

/-- U_SELECT (R211). `UDEV = 3` is never generated (R115): notes/assumptions/9.md. -/
def execUSelect (d : BitVec 2) (s : State) : Host.Outcome State Fault Refusal :=
  match Device.ofBits d with
  | some dev => .next (selectLine dev s)
  | none => .refused .microOpDeviceThree

/-- U_DESELECT (R212). `UDEV = 3` is never generated (R115): notes/assumptions/9.md. -/
def execUDeselect (d : BitVec 2) (s : State) : Host.Outcome State Fault Refusal :=
  match Device.ofBits d with
  | some dev => .next (deselectLine dev s)
  | none => .refused .microOpDeviceThree

/-- U_DELAY: a logged step that takes no modelled time (R345). -/
def execUDelay (id : DelayId) (s : State) : Host.Outcome State Fault Refusal := .next (logDelay id s)

/-- U_XFER, completed (R180). That the SPI environment has completed it is what the sequencer's turn says (R188;
notes/assumptions/2.md). -/
def execUXfer (b : Byte) (s : State) : Host.Outcome State Fault Refusal := .next (exchangeByte b s)

end Sys2Proof.Machine
end

