-- ==== Sys2Proof/Machine/Serial.lean ====
section
/-! DEFINITION. The logical serial port operations (spec/44_serial_port.md R260 to R267), each on the port's own device
(R192). -/

namespace Sys2Proof.Machine

/-- UART_SENDCHAR: one write to the transmit register, with no check of the FIFO (R262, R268). -/
def execUartSendchar (d : BitVec 2) (c : Chan) (b : Byte) (s : State) : Host.Outcome State Fault Refusal :=
  .next (checkPort (hostWordOf (.uartSendchar d c b)) d s fun dev =>
    beginProcedure [.frameWrite dev c Config.regThr b, .finish .nothing] s)

/-- The procedure of UART_RECVCHAR: the level, the decision, the byte (R264). -/
def recvCalls (d : Device) (c : Chan) : List HostCall :=
  [.frameRead d c Config.regRxlvl, .testLevel, .frameRead d c Config.regRhr, .finish .received]

/-- UART_RECVCHAR (R264). -/
def execUartRecvchar (d : BitVec 2) (c : Chan) (s : State) : Host.Outcome State Fault Refusal :=
  .next (checkPort (hostWordOf (.uartRecvchar d c)) d s fun dev => beginProcedure (recvCalls dev c) s)

/-- UART_AVAIL (R265). -/
def execUartAvail (d : BitVec 2) (c : Chan) (s : State) : Host.Outcome State Fault Refusal :=
  .next (checkPort (hostWordOf (.uartAvail d c)) d s fun dev =>
    beginProcedure [.frameRead dev c Config.regRxlvl, .finish .nonZero] s)

/-- UART_GETERR (R266). -/
def execUartGeterr (d : BitVec 2) (c : Chan) (s : State) : Host.Outcome State Fault Refusal :=
  .next (checkPort (hostWordOf (.uartGeterr d c)) d s fun dev =>
    beginProcedure [.frameRead dev c Config.regLsr, .finish .maskedErrors] s)

/-- UART_CLRERR: the read itself clears the flags in the bridge, so no frame writes (R267). -/
def execUartClrerr (d : BitVec 2) (c : Chan) (s : State) : Host.Outcome State Fault Refusal :=
  .next (checkPort (hostWordOf (.uartClrerr d c)) d s fun dev =>
    beginProcedure [.frameRead dev c Config.regLsr, .finish .nothing] s)

end Sys2Proof.Machine
end

