-- ==== Sys2Proof/Machine/Spi.lean ====
section
/-! DEFINITION. The raw register access operations and the command bytes of the SPI protocol
(spec/41_spi_register_access.md R184, R185; spec/30_encoding.md R110). -/

namespace Sys2Proof.Machine

/-- The procedure of SPI_WRITE (R184). -/
def spiWriteCalls (d : Device) (c : Chan) (r : Reg) (v : Byte) : List HostCall :=
  [.frameWrite d c r v, .finish .nothing]

/-- SPI_WRITE: starts its procedure (R184, R320). -/
def execSpiWrite (d : BitVec 2) (c : Chan) (r : Reg) (v : Byte) (s : State) : Host.Outcome State Fault Refusal :=
  .next (checkBridge (hostWordOf (.spiWrite d c r v)) d s fun dev => beginProcedure (spiWriteCalls dev c r v) s)

/-- The procedure of SPI_READ: always on `RAW_READ_DEVICE` (R185). -/
def spiReadCalls (c : Chan) (r : Reg) : List HostCall :=
  [.frameRead Config.rawReadDevice c r, .finish .received]

/-- SPI_READ: `DEV` is checked and then ignored (R185). -/
def execSpiRead (d : BitVec 2) (c : Chan) (r : Reg) (s : State) : Host.Outcome State Fault Refusal :=
  .next (checkBridge (hostWordOf (.spiRead d c r)) d s fun _ => beginProcedure (spiReadCalls c r) s)

/-- SPI_FRAME_WRITE: the command byte of a write frame goes out in one exchange; as the first byte after a select it
names the cell the payload byte is written to (R110, R111, R189). DEDUCED: notes/assumptions/14.md. -/
def execSpiFrameWrite (c : Chan) (r : Reg) (s : State) : Host.Outcome State Fault Refusal :=
  .next (exchangeByte (cmdByte .write c r) s)

/-- SPI_FRAME_READ: the same for a read frame (R110, R111, R189). DEDUCED: notes/assumptions/14.md. -/
def execSpiFrameRead (c : Chan) (r : Reg) (s : State) : Host.Outcome State Fault Refusal :=
  .next (exchangeByte (cmdByte .read c r) s)

end Sys2Proof.Machine
end

