-- ==== Sys2Proof/Machine/Uart.lean ====
section
/-! DEFINITION. The UART channel configurator: BAUD_LOOKUP and UART_INIT with its eleven steps
(spec/43_uart_configurator.md). -/

namespace Sys2Proof.Machine

/-- BAUD_LOOKUP (R232). -/
def execBaudLookup (rate : Rate) (s : State) : Host.Outcome State Fault Refusal :=
  .next (giveResult
    (match baudLookup rate with
    | some div => .divisor div
    | none => .unsupported) s)

/-- `WriteAll(d, c, L)` (R234). -/
def writeAll (d : Device) (c : Chan) (l : List (Reg × Byte)) : List HostCall :=
  l.map fun p => .frameWrite d c p.1 p.2

/-- `ChannelBringUp(d, c, div)`: the eleven steps in order (R234 to R245). -/
def channelBringUp (d : Device) (c : Chan) (div : Half) : List HostCall :=
  writeAll d c (cfgWrites .channelReset)
    ++ [.delay .tResetSettle]
    ++ writeAll d c (cfgWrites .clockSources)
    ++ writeAll d c (cfgWrites .pllConfig)
    ++ [.delay .tPllLock]
    ++ [.frameWrite d c Config.regDivLsb (divLow div), .frameWrite d c regDivMsb (divHigh div)]
    ++ writeAll d c (cfgWrites .lineFormat)
    ++ writeAll d c (cfgWrites .fifoTriggers)
    ++ writeAll d c (cfgWrites .modeRegisters)
    ++ writeAll d c (cfgWrites .flowControl)
    ++ writeAll d c (cfgWrites .interruptEnables)

/-- The bring-up of one channel and the record of its divisor (R233). -/
def channelCalls (d : Device) (div : Half) (c : Chan) : List HostCall :=
  channelBringUp d c div ++ [.recordDivisor d c div]

/-- The procedure of a supported UART_INIT after `st.devConfigured[d] <- 0` (R233). -/
def uartInitCalls (d : Device) (div : Half) : List HostCall :=
  allChannels.flatMap (channelCalls d div) ++ [.markConfigured d, .finish .initOk]

/-- UART_INIT: an unsupported rate returns at once with no bus activity; otherwise its procedure starts (R233). -/
def execUartInit (d : BitVec 2) (rate : Rate) (s : State) : Host.Outcome State Fault Refusal :=
  .next (checkBridge (hostWordOf (.uartInit d rate)) d s fun dev =>
    match baudLookup rate with
    | none => giveResult .initUnsupported s
    | some div =>
      beginProcedure (uartInitCalls dev div) { s with devConfigured := s.devConfigured.set dev false })

end Sys2Proof.Machine
end

