-- ==== Sys2Proof/Machine/Dispatch.lean ====
section
/-! DEFINITION. One arm per row of spec/opcode_table.json, each one direct call of its meaning. -/

namespace Sys2Proof.Machine

def exec (i : Instr) (s : State) : Host.Outcome State Fault Refusal :=
  match i with
  | .i2cStart t r => Sys2Proof.Machine.execI2cStart t r s
  | .i2cIsdone => Sys2Proof.Machine.execI2cIsdone s
  | .i2cGetbyte => Sys2Proof.Machine.execI2cGetbyte s
  | .spiWrite d c r v => Sys2Proof.Machine.execSpiWrite d c r v s
  | .spiRead d c r => Sys2Proof.Machine.execSpiRead d c r s
  | .uartInit d rate => Sys2Proof.Machine.execUartInit d rate s
  | .uartSendchar d c b => Sys2Proof.Machine.execUartSendchar d c b s
  | .uartRecvchar d c => Sys2Proof.Machine.execUartRecvchar d c s
  | .uartAvail d c => Sys2Proof.Machine.execUartAvail d c s
  | .uartGeterr d c => Sys2Proof.Machine.execUartGeterr d c s
  | .uartClrerr d c => Sys2Proof.Machine.execUartClrerr d c s
  | .baudLookup rate => Sys2Proof.Machine.execBaudLookup rate s
  | .spiFrameWrite c r => Sys2Proof.Machine.execSpiFrameWrite c r s
  | .spiFrameRead c r => Sys2Proof.Machine.execSpiFrameRead c r s
  | .i2cAddrW t => Sys2Proof.Machine.execI2cAddrW t s
  | .i2cAddrR t => Sys2Proof.Machine.execI2cAddrR t s
  | .bcStartW t => Sys2Proof.Machine.execBcStartW t s
  | .bcWrite b => Sys2Proof.Machine.execBcWrite b s
  | .bcRstartR t => Sys2Proof.Machine.execBcRstartR t s
  | .bcNackStop => Sys2Proof.Machine.execBcNackStop s
  | .bcStop => Sys2Proof.Machine.execBcStop s
  | .evAck => Sys2Proof.Machine.execEvAck s
  | .evNack => Sys2Proof.Machine.execEvNack s
  | .evTxe => Sys2Proof.Machine.execEvTxe s
  | .evRxv b => Sys2Proof.Machine.execEvRxv b s
  | .evStopd => Sys2Proof.Machine.execEvStopd s
  | .uSelect d => Sys2Proof.Machine.execUSelect d s
  | .uDeselect d => Sys2Proof.Machine.execUDeselect d s
  | .uDelay id => Sys2Proof.Machine.execUDelay id s
  | .uXfer b => Sys2Proof.Machine.execUXfer b s

end Sys2Proof.Machine
end

