-- ==== Sys2Proof/Machine/Fetch.lean ====
section
/-! DEFINITION. What the next step works on: whose turn it is, the word it takes, and what happens to a word no
instruction has (spec/60_exceptions.md R291, R297, R320, R321). Step.lean only puts these together. -/

namespace Sys2Proof.Machine

/-- What a turn comes to. -/
inductive Fetched where
  /-- A word is taken from a port; the state is the one without it. -/
  | word (p : PortWord) (s : State)
  /-- The turn ends without a word. -/
  | moved (s : State)
  /-- No step. -/
  | stuck (f : Fault)
deriving DecidableEq, Repr

/-- The host's turn (R181, R320): blocked, it goes on in its procedure once the sequencer's list is empty; not blocked,
it issues its next word. Otherwise it has no step and the turn passes. A word that then raises a fault has been issued
all the same: the list is of the words still to issue (notes/assumptions/3.md). -/
def hostTurn (s : State) : Fetched :=
  if s.spiBusy then
    if s.spiSeq.isEmpty then .moved (runCalls s.hostOp s) else .moved s
  else
    match s.hostWords with
    | [] => .moved s
    | w :: rest => .word (.host w) { s with hostWords := rest }

/-- The engine's turn: it consumes the oldest pending event (R144, R305). With none pending the turn passes. The
step consumes its event whether or not it raises a fault (R305). -/
def engineTurn (s : State) : Fetched :=
  match s.events with
  | [] => .moved s
  | e :: rest => .word (.event e) { s with events := rest }

/-- The sequencer's turn: its next micro-operation (R181). With none left the turn passes. DESIGN CHOICE, unsafe
(notes/assumptions/24.md): the word has left `st.spiSeq` before its checks, so also where a U_SELECT then raises
CS_CONFLICT; no rule says whether it has. -/
def sequencerTurn (s : State) : Fetched :=
  match s.spiSeq with
  | [] => .moved s
  | u :: rest => .word (.micro u) { s with spiSeq := rest }

/-- The turn at the head of the agenda, taken from it (R321). No agent has a step while the block is halted (R300). -/
def fetch (s : State) : Fetched :=
  if s.halted then .stuck .halted
  else
    match s.agenda with
    | [] => .stuck .noTurn
    | t :: rest =>
      let s' := { s with agenda := rest }
      match t with
      | .host => hostTurn s'
      | .engine => engineTurn s'
      | .sequencer => sequencerTurn s'
      | .bench p => .word p s'

/-- A word no instruction has: ILLEGAL_OP for a host word (R107, R291), I2C_RESERVED_EVENT for an event word (R152,
R297), a refusal for a bus command or micro-operation, which are never issued or generated (R113, R115). Every command
and address byte decodes. -/
def rejectWord (p : PortWord) (s : State) : Host.Outcome State Fault Refusal :=
  match p with
  | .host w => .next (raiseFault (.illegalOp w) s)
  | .event e => .next (raiseFault (.i2cReservedEvent e) s)
  | .bus w => .refused (.busCommandNeverIssued w)
  | .micro w => .refused (.microOpNeverGenerated w)
  | .command _ => .next s
  | .address _ => .next s

/-- A word put where the next step takes it from (notes/assumptions/3.md): a host word in the host's program, an event
among the pending events, a micro-operation in the sequencer's list, each with the turn that takes it; any other word on
its port. -/
def placeWord (p : PortWord) (s : State) : State :=
  match p with
  | .host w => { s with hostWords := w :: s.hostWords, agenda := .host :: s.agenda }
  | .event e => { s with events := e :: s.events, agenda := .engine :: s.agenda }
  | .micro u => { s with spiSeq := u :: s.spiSeq, agenda := .sequencer :: s.agenda }
  | .bus _ => { s with agenda := .bench p :: s.agenda }
  | .command _ => { s with agenda := .bench p :: s.agenda }
  | .address _ => { s with agenda := .bench p :: s.agenda }

end Sys2Proof.Machine
end

