-- ==== Sys2Proof/Machine/Step.lean ====
section
/-! DEFINITION. One step of the block: the next turn's word, decoded and carried out (spec/60_exceptions.md R320,
R321). -/

namespace Sys2Proof.Machine

/-- One atomic step of one agent (R83, R320). -/
def step (s : State) : Host.Outcome State Fault Refusal :=
  match fetch s with
  | .stuck f => .fault f
  | .moved t => .next t
  | .word p t =>
    match decode p with
    | .ok i => exec i t
    | .error _ => rejectWord p t

/-- A table row's word put where the next step takes it from (notes/assumptions/3.md, notes/assumptions/20.md). -/
def State.withFetchWord (s : State) (nbits w : Nat) : State :=
  match tablePort nbits w with
  | some p => placeWord p s
  | none => s

end Sys2Proof.Machine
end

