-- ==== Sys2Proof/Machine/Assembly.lean ====
section
/-! DEFINITION. The textual syntax of host operations and events, the pseudo-operation `uart.puts`, and the boot
sequence (spec/30_encoding.md R121, R122; spec/43_uart_configurator.md R248). Outside the step: a host's program is a
list of words, and this file says which lists these texts stand for. -/

namespace Sys2Proof.Machine

/-- A line of the assembler: the twelve operations, both spellings of SPI_READ, and `uart.puts` (R121, R122). -/
inductive AsmLine where
  | i2cStart (t : Target) (r : Byte)
  | i2cIsdone
  | i2cGetbyte
  | spiWrite (d : Device) (c : Chan) (r : Reg) (v : Byte)
  | spiRead (c : Chan) (r : Reg)
  | spiReadDev (d : Device) (c : Chan) (r : Reg)
  | uartInit (d : Device) (rate : Rate)
  | uartPutc (d : Device) (c : Chan) (b : Byte)
  | uartGetc (d : Device) (c : Chan)
  | uartAvail (d : Device) (c : Chan)
  | uartGeterr (d : Device) (c : Chan)
  | uartClrerr (d : Device) (c : Chan)
  | baudLookup (rate : Rate)
  | uartPuts (d : Device) (c : Chan) (bs : List Byte)
deriving DecidableEq, Repr

/-- The host operations a line stands for, in order. `spi.read <ch>, <reg>` has `DEV = 0`, as the example of R185
writes it; `uart.puts` is one UART_SENDCHAR per byte with nothing between them (R122, R263). -/
def AsmLine.instrs : AsmLine → List Instr
  | .i2cStart t r => [.i2cStart t r]
  | .i2cIsdone => [.i2cIsdone]
  | .i2cGetbyte => [.i2cGetbyte]
  | .spiWrite d c r v => [.spiWrite d.bits c r v]
  | .spiRead c r => [.spiRead 0#2 c r]
  | .spiReadDev d c r => [.spiRead d.bits c r]
  | .uartInit d rate => [.uartInit d.bits rate]
  | .uartPutc d c b => [.uartSendchar d.bits c b]
  | .uartGetc d c => [.uartRecvchar d.bits c]
  | .uartAvail d c => [.uartAvail d.bits c]
  | .uartGeterr d c => [.uartGeterr d.bits c]
  | .uartClrerr d c => [.uartClrerr d.bits c]
  | .baudLookup rate => [.baudLookup rate]
  | .uartPuts d c bs => bs.map fun b => .uartSendchar d.bits c b

/-- The host words of a line (R121, R122). -/
def AsmLine.words (l : AsmLine) : List Word := l.instrs.map hostWordOf

/-- The boot sequence: UART_INIT of A, B and C with `BOOT_RATE` (R248, R333). -/
def bootWords : List Word :=
  (allDevices.map fun d => AsmLine.uartInit d Config.bootRate).flatMap AsmLine.words

/-! ### Reading a line of text (R121) -/

/-- The characters before the first `sep`, and those after it. -/
def splitAtChar (sep : Char) : List Char → List Char × List Char
  | [] => ([], [])
  | c :: cs => if c = sep then ([], cs) else let (a, b) := splitAtChar sep cs; (c :: a, b)

/-- The operands between commas, blanks dropped. DESIGN CHOICE, safe (notes/assumptions/21.md): the spec says nothing of
blanks. -/
def operandTexts : List Char → List (List Char)
  | [] => [[]]
  | c :: cs =>
    if c = ',' then [] :: operandTexts cs
    else if c = ' ' then operandTexts cs
    else
      match operandTexts cs with
      | [] => [[c]]
      | t :: ts => (c :: t) :: ts

/-- A byte list without the angle brackets around it, if it has both: program P3 of spec/95_test_vectors.md writes the list
of `uart.puts` with them, R122 does not say whether they belong to the text. DESIGN CHOICE, safe
(notes/assumptions/21.md): both spellings are read, for `uart.puts` alone. -/
def unbracket (ts : List (List Char)) : List (List Char) :=
  match ts with
  | ('<' :: first) :: more =>
    match (first :: more).reverse with
    | [] => ts
    | last :: init =>
      match last.reverse with
      | '>' :: revLast => (revLast.reverse :: init).reverse
      | _ => ts
  | _ => ts

/-- A hexadecimal digit's value. -/
def digitOf (c : Char) : Option Nat :=
  if '0'.toNat ≤ c.toNat ∧ c.toNat ≤ '9'.toNat then some (c.toNat - '0'.toNat)
  else if 'a'.toNat ≤ c.toNat ∧ c.toNat ≤ 'f'.toNat then some (c.toNat - 'a'.toNat + 10)
  else if 'A'.toNat ≤ c.toNat ∧ c.toNat ≤ 'F'.toNat then some (c.toNat - 'A'.toNat + 10)
  else none

/-- Digits of a base, continuing from `acc`. -/
def digitsFrom (base : Nat) (acc : Nat) : List Char → Option Nat
  | [] => some acc
  | c :: cs =>
    match digitOf c with
    | some v => if v < base then digitsFrom base (base * acc + v) cs else none
    | none => none

/-- A number, decimal or `0x` hex (R121). -/
def numberOf : List Char → Option Nat
  | '0' :: 'x' :: c :: cs => digitsFrom 16 0 (c :: cs)
  | c :: cs => digitsFrom 10 0 (c :: cs)
  | [] => none

/-- A number that fits a field of `n` bits. -/
def fieldOf (n : Nat) (t : List Char) : Option (BitVec n) :=
  match numberOf t with
  | some v => if v < 2 ^ n then some (BitVec.ofNat n v) else none
  | none => none

/-- A device is written `A`, `B`, `C` or `0`, `1`, `2` (R121). -/
def deviceOf (t : List Char) : Option Device :=
  if t = ['A'] ∨ t = ['0'] then some .devA
  else if t = ['B'] ∨ t = ['1'] then some .devB
  else if t = ['C'] ∨ t = ['2'] then some .devC
  else none

/-- A byte list, each byte a number (R122). -/
def bytesOf : List (List Char) → Option (List Byte)
  | [] => some []
  | t :: ts =>
    match fieldOf 8 t, bytesOf ts with
    | some b, some bs => some (b :: bs)
    | _, _ => none

/-- A line with a device and a channel. -/
def portLine (mk : Device → Chan → AsmLine) (d c : List Char) : Option AsmLine :=
  match deviceOf d, fieldOf 2 c with
  | some dev, some ch => some (mk dev ch)
  | _, _ => none

/-- The line a mnemonic and its operands make (R121, R122). R122 has an empty byte list expand to nothing and does not say
how its text reads. DESIGN CHOICE, safe (notes/assumptions/21.md): three texts are read as `uart.puts` with the empty
list, a third operand `<>`, a third operand with no characters (`uart.puts A, 0,`), and no third operand
(`uart.puts A, 0`). -/
def lineOf (mn : List Char) (ops : List (List Char)) : Option AsmLine :=
  if mn = "i2c.start".toList then
    match ops with
    | [t, r] => (fieldOf 7 t).bind fun t => (fieldOf 8 r).map fun r => .i2cStart t r
    | _ => none
  else if mn = "i2c.isdone".toList then (if ops = [[]] then some .i2cIsdone else none)
  else if mn = "i2c.getbyte".toList then (if ops = [[]] then some .i2cGetbyte else none)
  else if mn = "spi.write".toList then
    match ops with
    | [d, c, r, v] =>
      (deviceOf d).bind fun d => (fieldOf 2 c).bind fun c => (fieldOf 5 r).bind fun r =>
        (fieldOf 8 v).map fun v => .spiWrite d c r v
    | _ => none
  else if mn = "spi.read".toList then
    match ops with
    | [c, r] => (fieldOf 2 c).bind fun c => (fieldOf 5 r).map fun r => .spiRead c r
    | [d, c, r] =>
      (deviceOf d).bind fun d => (fieldOf 2 c).bind fun c => (fieldOf 5 r).map fun r => .spiReadDev d c r
    | _ => none
  else if mn = "uart.init".toList then
    match ops with
    | [d, rate] => (deviceOf d).bind fun d => (fieldOf 24 rate).map fun rate => .uartInit d rate
    | _ => none
  else if mn = "uart.putc".toList then
    match ops with
    | [d, c, b] => (fieldOf 8 b).bind fun b => portLine (fun d c => .uartPutc d c b) d c
    | _ => none
  else if mn = "uart.getc".toList then
    match ops with
    | [d, c] => portLine .uartGetc d c
    | _ => none
  else if mn = "uart.avail".toList then
    match ops with
    | [d, c] => portLine .uartAvail d c
    | _ => none
  else if mn = "uart.geterr".toList then
    match ops with
    | [d, c] => portLine .uartGeterr d c
    | _ => none
  else if mn = "uart.clrerr".toList then
    match ops with
    | [d, c] => portLine .uartClrerr d c
    | _ => none
  else if mn = "baud.lookup".toList then
    match ops with
    | [rate] => (fieldOf 24 rate).map .baudLookup
    | _ => none
  else if mn = "uart.puts".toList then
    match ops with
    | d :: c :: bs =>
      (bytesOf (if unbracket bs = [[]] then [] else unbracket bs)).bind fun bs => portLine (fun d c => .uartPuts d c bs) d c
    | _ => none
  else none

/-- A line of text: the mnemonic, a blank, the operands (R121). -/
def readLine (text : String) : Option AsmLine :=
  let (mn, rest) := splitAtChar ' ' text.toList
  lineOf mn (operandTexts rest)

/-- An event as text: `ev.ack`, `ev.nack`, `ev.txe`, `ev.rxv <byte>`, `ev.stopd` (R121). -/
def readEvent (text : String) : Option Half :=
  let (mn, rest) := splitAtChar ' ' text.toList
  if mn = "ev.rxv".toList then
    match operandTexts rest with
    | [b] => (fieldOf 8 b).map fun b => eventWord 3#3 b
    | _ => none
  else if rest ≠ [] then none
  else if mn = "ev.ack".toList then some (eventWord 0#3 0#8)
  else if mn = "ev.nack".toList then some (eventWord 1#3 0#8)
  else if mn = "ev.txe".toList then some (eventWord 2#3 0#8)
  else if mn = "ev.stopd".toList then some (eventWord 4#3 0#8)
  else none

end Sys2Proof.Machine
end

