-- ==== Sys2Proof/Safety.lean ====
section
/-! DEFINITION. What counts as a safe run, the invariants of the block, and the schedules claims name, in the terms
claims use (spec/42_cs_arbiter.md R213, R215; spec/60_exceptions.md R300, R301, R320 to R322). -/

namespace Sys2Proof.Machine

/-! ### Invariants -/

/-- At most one chip-select line is selected (R213). -/
def AtMostOneSelected (s : State) : Prop := (selectedSet s).length ≤ 1

/-- The halted bit is set exactly when a fault has been recorded (R47). -/
def HaltedIffFault (s : State) : Prop := s.halted = true ↔ s.faults ≠ []

/-- `st.faults` is a set: no record twice (R47). -/
def FaultsAreSet (s : State) : Prop := s.faults.Nodup

/-- The test double's store is in canonical form. -/
def StoreCanonical (s : State) : Prop := Memory.wf s.bridgeStore

/-- What the engine holds of its transaction: outside Idle its target and register address (R33, R34) and a clear
completion flag (R142), in WaitStop its byte (R147), and a set completion flag with no nack end means that a byte is held
(R83, R84). -/
structure TransactionHeld (s : State) : Prop where
  target : s.i2cState ≠ .idle → s.i2cTarget.isSome
  reg : s.i2cState ≠ .idle → s.i2cReg.isSome
  notDone : s.i2cState ≠ .idle → s.i2cDone = false
  byteInWaitStop : s.i2cState = .waitStop → s.i2cLastByte.isSome
  byteWhenDone : s.i2cDone = true → s.i2cNackEnd = false → s.i2cLastByte.isSome

/-- A turn one of the agents of R320 takes. -/
def Turn.ofSpec : Turn → Bool
  | .bench _ => false
  | _ => true

/-- Where the sequencer's list stands beside the chip-select lines: nothing selected before a list starts and after it
ends, and inside a frame exactly its own device selected (R215). -/
def ListMatchesLines (s : State) : Prop :=
  (selectedSet s = [] ∧
    (s.spiSeq = [] ∨ (∃ id, s.spiSeq = [delayWord id]) ∨ (∃ d b1 b2, s.spiSeq = frameWords d b1 b2))) ∨
  (∃ d b1 b2 k, 1 ≤ k ∧ k ≤ 5 ∧ s.spiSeq = (frameWords d b1 b2).drop k ∧ selectedSet s = [d])

/-- A state of a run of the spec's own agents: no bench turn to come, the sequencer's list bracketed, and nothing left
of a procedure while the bus is idle (R181, R215, R320). -/
def Disciplined (s : State) : Prop :=
  (∀ t ∈ s.agenda, t.ofSpec = true) ∧ (s.spiBusy = false → s.spiSeq = [] ∧ s.hostOp = []) ∧ ListMatchesLines s

/-! ### Runs -/

/-- No fault has been recorded: the premise of every claim about a run (R301). -/
def NoFault (s : State) : Prop := s.halted = false ∧ s.faults = []

/-- The end of a successful run (R322). -/
def EndsWell (s : State) : Prop :=
  s.hostWords = [] ∧ s.spiBusy = false ∧ s.spiSeq = [] ∧ s.halted = false ∧ s.events = []

/-- How many micro-operations a call hands to the sequencer (R182, R183, R234). -/
def HostCall.microOps : HostCall → Nat
  | .frameWrite _ _ _ _ => 6
  | .frameRead _ _ _ => 6
  | .delay _ => 1
  | .recordDivisor _ _ _ => 0
  | .markConfigured _ => 0
  | .testLevel => 0
  | .finish _ => 0

/-- The turns that carry a list of calls out without interruption: for each call one turn of the host and then the
sequencer's. The first host turn is the one that issues the operation. -/
def turnsOf (calls : List HostCall) : List Turn :=
  calls.flatMap fun c => .host :: List.replicate c.microOps .sequencer

/-- The state after `n` steps that all give a next state. -/
def runsTo (n : Nat) (s t : State) : Prop := Host.Core.run Sys2Proof.core n s = .next t

/-! ### Illegal words -/

/-- Every word with this `OP` and a bit of the mask set is no operation, and issuing it raises ILLEGAL_OP (R107). -/
def IllegalWith (op : BitVec 4) (mask : Word) : Prop :=
  ∀ (s : State) (w : Word), hostOpcode w = op → w &&& mask ≠ 0#32 →
    (decodeHost w).toOption = none ∧
      rejectWord (.host w) s = .next { s with
        faults := if .illegalOp w ∈ s.faults then s.faults else s.faults ++ [.illegalOp w]
        halted := true }

/-! ### What the next turn does -/

/-- The next turn takes the event word `e`: the engine's turn the oldest pending event, a bench turn its own word (R144). -/
def NextEvent (s : State) (e : Half) : Prop :=
  (∃ rest es, s.agenda = .engine :: rest ∧ s.events = e :: es) ∨ ∃ rest, s.agenda = .bench (.event e) :: rest

/-- The next turn issues the host word `w`: the host's turn while it is not blocked, or a bench turn (R320). -/
def NextHostWord (s : State) (w : Word) : Prop :=
  (∃ rest ws, s.agenda = .host :: rest ∧ s.spiBusy = false ∧ s.hostWords = w :: ws) ∨
    ∃ rest, s.agenda = .bench (.host w) :: rest

/-- The next turn is the blocked host's, and the call it carries out is `c` (R181). -/
def NextCall (s : State) (c : HostCall) : Prop :=
  (∃ rest, s.agenda = .host :: rest) ∧ s.spiBusy = true ∧ s.spiSeq = [] ∧ ∃ calls, s.hostOp = c :: calls

/-! ### What two states share -/

/-- The I2C engine's state is the same (R155). -/
def SameI2c (s t : State) : Prop :=
  t.i2cState = s.i2cState ∧ t.i2cTarget = s.i2cTarget ∧ t.i2cReg = s.i2cReg ∧ t.i2cLastByte = s.i2cLastByte ∧
    t.i2cDone = s.i2cDone ∧ t.i2cNackEnd = s.i2cNackEnd ∧ t.i2cLog = s.i2cLog

/-- The SPI and channel state is the same (R155). -/
def SameSpi (s t : State) : Prop :=
  t.csSel = s.csSel ∧ t.spiBusy = s.spiBusy ∧ t.spiSeq = s.spiSeq ∧ t.spiRx = s.spiRx ∧ t.spiLog = s.spiLog ∧
    t.devConfigured = s.devConfigured ∧ t.chDivisor = s.chDivisor ∧ t.hostOp = s.hostOp ∧ t.spiFrame = s.spiFrame

/-- `st.faults` gains exactly the one record `f`, the block halts, and everything else is as it was (R17, R300). -/
def OnlyFault (f : FaultRecord) (s t : State) : Prop :=
  t = { s with faults := s.faults ++ [f], halted := true }

/-- Write frames among calls. -/
def HostCall.isWriteFrame : HostCall → Bool
  | .frameWrite _ _ _ _ => true
  | _ => false

/-- Read frames among calls. -/
def HostCall.isReadFrame : HostCall → Bool
  | .frameRead _ _ _ => true
  | _ => false

/-- Standalone delays among calls. -/
def HostCall.isDelay : HostCall → Bool
  | .delay _ => true
  | _ => false

/-- The device a frame call addresses. -/
def HostCall.device : HostCall → Option Device
  | .frameWrite d _ _ _ => some d
  | .frameRead d _ _ => some d
  | _ => none

/-! ### What a procedure puts on the SPI log -/

/-- A log entry without the byte received, which the block does not choose (R52). -/
def SpiEvent.sent : SpiEvent → SpiEvent
  | .xfer tx _ => .xfer tx 0#8
  | e => e

/-- The entries of one frame that sends `b1` and `b2` to device `d` (R182, R183). -/
def frameEntries (d : Device) (b1 b2 : Byte) : List SpiEvent :=
  [.select d, .delay .tCss, .xfer b1 0#8, .xfer b2 0#8, .delay .tCsh, .deselect d]

/-- The entries of the eleven steps of one channel's bring-up, received bytes left out (R234 to R245). -/
def bringUpEntries (d : Device) (c : Chan) (div : Half) : List SpiEvent :=
  let write (p : Reg × Byte) := frameEntries d (cmdByte .write c p.1) p.2
  (cfgWrites .channelReset).flatMap write
    ++ [.delay .tResetSettle]
    ++ (cfgWrites .clockSources).flatMap write
    ++ (cfgWrites .pllConfig).flatMap write
    ++ [.delay .tPllLock]
    ++ write (Config.regDivLsb, div.extractLsb' 0 8)
    ++ write (regDivMsb, div.extractLsb' 8 8)
    ++ (cfgWrites .lineFormat).flatMap write
    ++ (cfgWrites .fifoTriggers).flatMap write
    ++ (cfgWrites .modeRegisters).flatMap write
    ++ (cfgWrites .flowControl).flatMap write
    ++ (cfgWrites .interruptEnables).flatMap write

/-- The register writes of the steps after the divisor, (7) to (11), out of the lists `cfg` (R241 to R245). -/
def writesAfterDivisor (cfg : Config.CfgStep → List (Reg × Byte)) : List (Reg × Byte) :=
  [Config.CfgStep.lineFormat, .fifoTriggers, .modeRegisters, .flowControl, .interruptEnables].flatMap cfg

/-- The registers they write (R249). -/
def writtenAfterDivisor (cfg : Config.CfgStep → List (Reg × Byte)) : List Reg :=
  (writesAfterDivisor cfg).map Prod.fst

/-- The register writes of one channel's bring-up in order (R234). -/
def bringUpWrites (cfg : Config.CfgStep → List (Reg × Byte)) (div : Half) : List (Reg × Byte) :=
  [Config.CfgStep.channelReset, .clockSources, .pllConfig].flatMap cfg
    ++ [(Config.regDivLsb, div.extractLsb' 0 8), (regDivMsb, div.extractLsb' 8 8)]
    ++ writesAfterDivisor cfg

end Sys2Proof.Machine
end

