-- ==== Sys2Proof/Certificates/Slice0/Obligations.lean ====
section
/-! DEFINITION. The statements for the provers. Each docstring names the rule it formalises; where a clause rests on a
choice of the model, it names the log entry. An equation `= .next { s with … }` is at once the result and the frame:
every field not named is unchanged. -/

open Sys2Proof Sys2Proof.Machine

/-! ### Encodings -/

/-- Every well-formed instruction's word decodes to it, with every operand at every value (R118 and R110 to R115). -/
def Obligations.DecodeOfEncodeIsIdentity : Prop :=
  ∀ i : Instr, WellFormed i = true → decode (encode i) = .ok i

/-- A word a port decodes is the word of the instruction it gives, and that instruction is well formed: no two words of a
port mean the same (R107, R114, R115). -/
def Obligations.EncodeOfDecodedIsTheWord : Prop :=
  ∀ (p : PortWord) (i : Instr), decode p = .ok i → WellFormed i = true ∧ encode i = p

/-- Words written out from the encodings of spec/30_encoding.md, one or more of each family. -/
def Obligations.SpecWordsDecode : Prop :=
  decodeHost 0x10501000#32 = .ok (.i2cStart 0x50#7 0x10#8) ∧
  decodeHost 0x411C009C#32 = .ok (.spiWrite 0#2 1#2 0x1C#5 0x9C#8) ∧
  decodeHost 0x60002580#32 = .ok (.uartInit 0#2 9600#24) ∧
  decodeHost 0x7000004F#32 = .ok (.uartSendchar 0#2 0#2 0x4F#8) ∧
  decodeHost 0xC0002580#32 = .ok (.baudLookup 9600#24) ∧
  decodeCommand 0xBC#8 = .spiFrameWrite 1#2 0x1C#5 ∧
  decodeAddress 0xA1#8 = .i2cAddrR 0x50#7 ∧
  decodeBus 0x30A1#16 = .ok (.bcRstartR 0x50#7) ∧
  decodeEvent 0x4203#16 = .ok (.evRxv 0x42#8) ∧
  decodeMicro 0x1100#16 = .ok (.uSelect 1#2)

/-- R291 with R107: the host's next word, if its OP is reserved or a must-be-zero bit of its operation is set, raises
ILLEGAL_OP and has no other effect. -/
def Obligations.IllegalHostWordRaisesIllegalOp : Prop :=
  ∀ (s : State) (rest : List Turn) (w : Word) (ws : List Word),
    s.halted = false → s.agenda = .host :: rest → s.spiBusy = false → s.hostWords = w :: ws →
    (hostOpcode w = 0x0#4 ∨ hostOpcode w = 0xD#4 ∨ hostOpcode w = 0xE#4 ∨ hostOpcode w = 0xF#4 ∨
      ∃ m, zeroMask (hostOpcode w) = some m ∧ w &&& m ≠ 0#32) →
    step s = .next { s with
      agenda := rest
      hostWords := ws
      faults := if .illegalOp w ∈ s.faults then s.faults else s.faults ++ [.illegalOp w]
      halted := true }

/-- R152: the engine's next event word, if it is reserved (EV in 5..7, or `w[7:3] ≠ 0`, or DATA ≠ 0 with EV ≠ 3), raises
I2C_RESERVED_EVENT in every engine state and has no other effect. -/
def Obligations.ReservedEventRaisesReservedEvent : Prop :=
  ∀ (s : State) (rest : List Turn) (e : Half) (es : List Half),
    s.halted = false → s.agenda = .engine :: rest → s.events = e :: es →
    (5 ≤ (e.extractLsb' 0 3).toNat ∨ e.extractLsb' 3 5 ≠ 0#5 ∨
      (e.extractLsb' 8 8 ≠ 0#8 ∧ e.extractLsb' 0 3 ≠ 3#3)) →
    step s = .next { s with
      agenda := rest
      events := es
      faults := if .i2cReservedEvent e ∈ s.faults then s.faults else s.faults ++ [.i2cReservedEvent e]
      halted := true }

/-- R110: the command byte holds the direction, the channel and the register in its three fields, its value is
`(dir << 7) | (ch << 5) | reg`, and every byte is the command byte of one direction, channel and register. -/
def Obligations.CommandByteHoldsItsFields : Prop :=
  (∀ (dir : Dir) (c : Chan) (r : Reg),
    (cmdByte dir c r).extractLsb' 7 1 = dir.bit ∧ (cmdByte dir c r).extractLsb' 5 2 = c ∧
      (cmdByte dir c r).extractLsb' 0 5 = r ∧
      (cmdByte dir c r).toNat = 128 * dir.bit.toNat + 32 * c.toNat + r.toNat) ∧
  ∀ b : Byte, ∃ dir c r, cmdByte dir c r = b

/-- R112: the address byte holds the target in bits 7:1 and the read/write bit in bit 0, for every target. -/
def Obligations.AddressByteHoldsItsFields : Prop :=
  ∀ (t : Target) (rw : BitVec 1),
    (addrByte t rw).extractLsb' 1 7 = t ∧ (addrByte t rw).extractLsb' 0 1 = rw ∧
      (addrByte t rw).toNat = 2 * t.toNat + rw.toNat

/-! ### The step -/

/-- R320 and R321: a turn whose word decodes to an instruction runs exactly that instruction on the state without the
word: the host's next word, the engine's next event, the sequencer's next micro-operation, a bench word. R181: the blocked host issues no word;
while the sequencer has micro-operations left its turn changes the agenda alone, and after that it goes on in its procedure.
The agenda and the bench turn are the model's (notes/assumptions/1.md, notes/assumptions/4.md), and so are the granularity of
the procedure (notes/assumptions/12.md) and that a U_SELECT has left the sequencer's list also where it raises CS_CONFLICT
(notes/assumptions/24.md). -/
def Obligations.StepRunsTheDecodedInstruction : Prop :=
  (∀ (s : State) (rest : List Turn) (w : Word) (ws : List Word) (i : Instr),
    s.halted = false → s.agenda = .host :: rest → s.spiBusy = false → s.hostWords = w :: ws →
    decodeHost w = .ok i → step s = exec i { s with agenda := rest, hostWords := ws }) ∧
  (∀ (s : State) (rest : List Turn) (e : Half) (es : List Half) (i : Instr),
    s.halted = false → s.agenda = .engine :: rest → s.events = e :: es →
    decodeEvent e = .ok i → step s = exec i { s with agenda := rest, events := es }) ∧
  (∀ (s : State) (rest : List Turn) (u : Half) (us : List Half) (i : Instr),
    s.halted = false → s.agenda = .sequencer :: rest → s.spiSeq = u :: us →
    decodeMicro u = .ok i → step s = exec i { s with agenda := rest, spiSeq := us }) ∧
  (∀ (s : State) (rest : List Turn) (p : PortWord) (i : Instr),
    s.halted = false → s.agenda = .bench p :: rest →
    decode p = .ok i → step s = exec i { s with agenda := rest }) ∧
  (∀ (s : State) (rest : List Turn),
    s.halted = false → s.agenda = .host :: rest → s.spiBusy = true → s.spiSeq ≠ [] →
    step s = .next { s with agenda := rest }) ∧
  (∀ (s : State) (rest : List Turn),
    s.halted = false → s.agenda = .host :: rest → s.spiBusy = true → s.spiSeq = [] →
    step s = .next (runCalls s.hostOp { s with agenda := rest }))

/-- R300: while the block is halted no agent has a step. -/
def Obligations.HaltedBlockHasNoStep : Prop :=
  ∀ s : State, s.halted = true → step s = .fault .halted

/-- R330: the block's state after reset. -/
def Obligations.ResetLeavesTheSpecValues : Prop :=
  State.reset.i2cState = .idle ∧ State.reset.i2cTarget = none ∧ State.reset.i2cReg = none ∧
  State.reset.i2cLastByte = none ∧ State.reset.i2cDone = false ∧ State.reset.i2cNackEnd = false ∧
  State.reset.i2cLog = [] ∧ State.reset.spiLog = [] ∧
  (∀ d : Device, State.reset.csSel.get d = false) ∧
  State.reset.spiBusy = false ∧ State.reset.spiSeq = [] ∧ State.reset.spiRx = none ∧
  (∀ d : Device, State.reset.devConfigured.get d = false) ∧
  (∀ (d : Device) (c : Chan), (State.reset.chDivisor.get d).get c = none) ∧
  State.reset.faults = [] ∧ State.reset.halted = false ∧
  (∀ (d : Device) (c : Chan) (r : Reg), Memory.read State.reset.bridgeStore (cellAddr d c r) = none) ∧
  State.reset.events = []

/-! ### The I2C host operations -/

/-- R141: from Idle a transaction starts; otherwise nothing but the (empty) result changes; and no word with a
must-be-zero bit set starts one. -/
def Obligations.I2cStartStartsOnlyFromIdle : Prop :=
  IllegalWith 0x1#4 0x0F8000FF#32 ∧ ∀ (s : State) (t : Target) (r : Byte),
    encode (.i2cStart t r) = .host (0x10000000#32 ||| t.setWidth 32 <<< 16 ||| r.setWidth 32 <<< 8) ∧
    (s.i2cState = .idle →
      exec (.i2cStart t r) s = .next { s with
        i2cDone := false
        i2cNackEnd := false
        i2cTarget := some t
        i2cReg := some r
        i2cLastByte := none
        i2cLog := s.i2cLog ++ [.startW (addrByte t 0#1)]
        i2cState := .sendAddr
        results := s.results ++ [.nothing] }) ∧
    (s.i2cState ≠ .idle → exec (.i2cStart t r) s = .next { s with results := s.results ++ [.nothing] })

/-- R142: the result is the completion flag; a set flag is kept, cleared or drawn as `ISDONE_CONSUMES` says. The draw is
a free value (notes/assumptions/5.md). -/
def Obligations.I2cIsdoneReturnsTheFlag : Prop :=
  IllegalWith 0x2#4 0x0FFFFFFF#32 ∧ encode .i2cIsdone = .host 0x20000000#32 ∧ ∀ s : State,
    (s.i2cDone = false → exec .i2cIsdone s = .next { s with results := s.results ++ [.bit false] }) ∧
    (s.i2cDone = true → s.options.isdoneConsumes = .no →
      exec .i2cIsdone s = .next { s with results := s.results ++ [.bit true] }) ∧
    (s.i2cDone = true → s.options.isdoneConsumes = .yes →
      exec .i2cIsdone s = .next { s with results := s.results ++ [.bit true], i2cDone := false }) ∧
    (s.i2cDone = true → s.options.isdoneConsumes = .either →
      exec .i2cIsdone s = .next { s with
        results := s.results ++ [.bit true], i2cDone := Config.freeBit s.draws, draws := s.draws + 1 })

/-- R143: the captured byte, or a free value if there is none or the transaction ended through a nack
(notes/assumptions/5.md). -/
def Obligations.I2cGetbyteReturnsTheByteOrADraw : Prop :=
  IllegalWith 0x3#4 0x0FFFFFFF#32 ∧ encode .i2cGetbyte = .host 0x30000000#32 ∧ ∀ s : State,
    (∀ b, s.i2cLastByte = some b → s.i2cNackEnd = false →
      exec .i2cGetbyte s = .next { s with results := s.results ++ [.byte b] }) ∧
    ((s.i2cLastByte = none ∨ s.i2cNackEnd = true) →
      exec .i2cGetbyte s = .next { s with
        results := s.results ++ [.byte (Config.freeByte s.draws)], draws := s.draws + 1 })

/-! ### The event steps -/

/-- R145. -/
def Obligations.AckInSendAddrWritesTheRegisterAddress : Prop :=
  decodeEvent 0x0000#16 = .ok .evAck ∧ ∀ (s : State) (r : Byte), s.i2cState = .sendAddr → s.i2cReg = some r →
    exec .evAck s = .next { s with i2cLog := s.i2cLog ++ [.write r], i2cState := .sendReg }

/-- R146: tx-buffer-empty and ack alike. -/
def Obligations.SendRegAdvancesOnTxeAndOnAck : Prop :=
  decodeEvent 0x0002#16 = .ok .evTxe ∧ decodeEvent 0x0000#16 = .ok .evAck ∧ ∀ (s : State) (t : Target), s.i2cState = .sendReg → s.i2cTarget = some t →
    exec .evTxe s = .next { s with i2cLog := s.i2cLog ++ [.rstartR (addrByte t 1#1)], i2cState := .read } ∧
    exec .evAck s = .next { s with i2cLog := s.i2cLog ++ [.rstartR (addrByte t 1#1)], i2cState := .read }

/-- R147. -/
def Obligations.RxvInReadCapturesTheByte : Prop :=
  ∀ (s : State) (b : Byte), decodeEvent (b.setWidth 16 <<< 8 ||| 0x3#16) = .ok (.evRxv b) ∧ (s.i2cState = .read →
    exec (.evRxv b) s = .next { s with
      i2cLastByte := some b, i2cLog := s.i2cLog ++ [.nackStop], i2cState := .waitStop })

/-- R148. -/
def Obligations.StopdInWaitStopCompletes : Prop :=
  decodeEvent 0x0004#16 = .ok .evStopd ∧ ∀ s : State, s.i2cState = .waitStop →
    exec .evStopd s = .next { s with i2cDone := true, i2cNackEnd := false, i2cState := .idle }

/-- R149: in every state. -/
def Obligations.NackEndsTheTransactionInAnyState : Prop :=
  decodeEvent 0x0001#16 = .ok .evNack ∧ ∀ s : State,
    exec .evNack s = .next { s with
      i2cDone := true, i2cNackEnd := true, i2cLog := s.i2cLog ++ [.stop], i2cState := .idle }

/-- R150: in Idle every event but a nack is consumed, and the completion flag alone may change, as
`IDLE_STRAY_CLEARS_DONE` says; under `either` it is drawn from {done, 0} (notes/assumptions/5.md). -/
def Obligations.StrayEventInIdleTouchesOnlyTheDoneFlag : Prop :=
  ∀ (s : State) (b : Byte) (i : Instr), i ∈ [Instr.evAck, .evTxe, .evRxv b, .evStopd] → s.i2cState = .idle →
    (s.options.idleStrayClearsDone = .no → exec i s = .next s) ∧
    (s.options.idleStrayClearsDone = .yes → exec i s = .next { s with i2cDone := false }) ∧
    (s.options.idleStrayClearsDone = .either →
      exec i s = .next { s with i2cDone := s.i2cDone && Config.freeBit s.draws, draws := s.draws + 1 })

/-- R151: the eleven (state, event) pairs the table does not list. -/
def Obligations.UnlistedEventFaultsOrIsIgnored : Prop :=
  ∀ (s : State) (b : Byte) (st : I2cState) (i : Instr) (e : Half),
    (st, i, e) ∈ [(I2cState.sendAddr, Instr.evTxe, (0x0002#16 : Half)),
      (.sendAddr, .evRxv b, eventWord 3#3 b), (.sendAddr, .evStopd, 0x0004#16),
      (.sendReg, .evRxv b, eventWord 3#3 b), (.sendReg, .evStopd, 0x0004#16),
      (.read, .evAck, 0x0000#16), (.read, .evTxe, 0x0002#16), (.read, .evStopd, 0x0004#16),
      (.waitStop, .evAck, 0x0000#16), (.waitStop, .evTxe, 0x0002#16), (.waitStop, .evRxv b, eventWord 3#3 b)] →
    s.i2cState = st →
    (s.options.unlistedEvent = .fault →
      exec i s = .next { s with
        faults := if .i2cUnlistedEvent st e ∈ s.faults then s.faults else s.faults ++ [.i2cUnlistedEvent st e]
        halted := true }) ∧
    (s.options.unlistedEvent = .ignore → exec i s = .next s)

/-- R156: I2C_START and then the events ack, ack or txe, rxv b, stopd end in Idle with the byte, and issue exactly the
four bus commands in order. -/
def Obligations.TransactionReadsOneRegister : Prop :=
  ∀ (s : State) (t : Target) (r b : Byte) (e2 : Half) (rest : List Turn) (ws : List Word) (es : List Half) (w : Word),
    s.halted = false → s.i2cState = .idle → s.spiBusy = false → encode (.i2cStart t r) = .host w →
    (e2 = 0x0000#16 ∨ e2 = 0x0002#16) →
    s.agenda = [Turn.host, .engine, .engine, .engine, .engine] ++ rest →
    s.hostWords = w :: ws → s.events = [(0x0000#16 : Half), e2, eventWord 3#3 b, 0x0004#16] ++ es →
    runsTo 5 s { s with
      agenda := rest
      hostWords := ws
      events := es
      i2cState := .idle
      i2cTarget := some t
      i2cReg := some r
      i2cLastByte := some b
      i2cDone := true
      i2cNackEnd := false
      i2cLog := s.i2cLog ++ [.startW (addrByte t 0#1), .write r, .rstartR (addrByte t 1#1), .nackStop]
      results := s.results ++ [.nothing] }

/-- R153: only a nack, or stop-detected in WaitStop, takes the engine from another state to Idle. It holds of every
instruction, and of every step: no turn of a blocked host, no rejected word, no host word and no micro-operation does it. -/
def Obligations.OnlyNackOrStopReturnsTheEngineToIdle : Prop :=
  (∀ (i : Instr) (s t : State), exec i s = .next t → s.i2cState ≠ .idle → t.i2cState = .idle →
    i = .evNack ∨ (i = .evStopd ∧ s.i2cState = .waitStop)) ∧
  ∀ s t : State, step s = .next t → s.i2cState ≠ .idle → t.i2cState = .idle →
    NextEvent s 0x0001#16 ∨ (NextEvent s 0x0004#16 ∧ s.i2cState = .waitStop)

/-! ### Bus commands, address bytes and command bytes -/

/-- R15 and R113: each bus command is appended to `st.i2cLog`, and nothing else changes; an address byte goes out in the
start or repeated start that carries it (R112; notes/assumptions/15.md, notes/assumptions/16.md). -/
def Obligations.BusCommandsAreAppendedToTheLog : Prop :=
  ∀ (s : State) (t : Target) (b : Byte),
    exec (.bcStartW t) s = .next { s with i2cLog := s.i2cLog ++ [.startW (addrByte t 0#1)] } ∧
    exec (.bcWrite b) s = .next { s with i2cLog := s.i2cLog ++ [.write b] } ∧
    exec (.bcRstartR t) s = .next { s with i2cLog := s.i2cLog ++ [.rstartR (addrByte t 1#1)] } ∧
    exec .bcNackStop s = .next { s with i2cLog := s.i2cLog ++ [.nackStop] } ∧
    exec .bcStop s = .next { s with i2cLog := s.i2cLog ++ [.stop] } ∧
    exec (.i2cAddrW t) s = .next { s with i2cLog := s.i2cLog ++ [.startW (addrByte t 0#1)] } ∧
    exec (.i2cAddrR t) s = .next { s with i2cLog := s.i2cLog ++ [.rstartR (addrByte t 1#1)] }

/-- R110, R111, R180: a command byte sent right after a select is exchanged like any byte, its own received byte is drawn,
no cell changes, and the frame is from then on at its channel and register (notes/assumptions/13.md,
notes/assumptions/14.md). -/
def Obligations.CommandByteOpensItsFrame : Prop :=
  ∀ (s : State) (c : Chan) (r : Reg), s.spiFrame = .opened →
    exec (.spiFrameWrite c r) s = .next { s with
      spiRx := some (Config.freeByte s.draws)
      spiLog := s.spiLog ++ [.xfer (cmdByte .write c r) (Config.freeByte s.draws)]
      spiFrame := .commanded .write c r
      draws := s.draws + 1 } ∧
    exec (.spiFrameRead c r) s = .next { s with
      spiRx := some (Config.freeByte s.draws)
      spiLog := s.spiLog ++ [.xfer (cmdByte .read c r) (Config.freeByte s.draws)]
      spiFrame := .commanded .read c r
      draws := s.draws + 1 }

/-! ### Micro-operations -/

/-- R211: with nothing selected the line is asserted and logged; with any line selected CS_CONFLICT is raised before the
line is driven. The word is `0x1000 | (d << 8)`. That a select opens a frame is the model's (notes/assumptions/13.md). -/
def Obligations.SelectAssertsOneLineOrConflicts : Prop :=
  ∀ (s : State) (d : Device),
    selectWord d.bits = 0x1000#16 ||| (d.bits.setWidth 16 <<< 8) ∧
    (selectedSet s = [] →
      exec (.uSelect d.bits) s = .next { s with
        csSel := s.csSel.set d true, spiLog := s.spiLog ++ [.select d], spiFrame := .opened }) ∧
    (selectedSet s ≠ [] →
      exec (.uSelect d.bits) s = .next { s with
        faults := if .csConflict d (selectedSet s) ∈ s.faults then s.faults
          else s.faults ++ [.csConflict d (selectedSet s)]
        halted := true })

/-- R212: the line is deasserted and logged, selected or not, and any other line stays; the frame closes when nothing is
left selected (notes/assumptions/13.md). -/
def Obligations.DeselectClearsOneLine : Prop :=
  ∀ (s : State) (d : Device),
    deselectWord d.bits = 0x2000#16 ||| (d.bits.setWidth 16 <<< 8) ∧
    exec (.uDeselect d.bits) s = .next { s with
      csSel := s.csSel.set d false
      spiLog := s.spiLog ++ [.deselect d]
      spiFrame := if (allDevices.filter (s.csSel.set d false).get).isEmpty then .closed else s.spiFrame } ∧
    (s.csSel.set d false).get d = false ∧ ∀ e, e ≠ d → (s.csSel.set d false).get e = s.csSel.get e

/-- R115: a select or deselect with UDEV = 3 is never generated; the model refuses it by name
(notes/assumptions/9.md). -/
def Obligations.SelectOfDeviceThreeIsRefused : Prop :=
  ∀ s : State, exec (.uSelect 3#2) s = .refused .microOpDeviceThree ∧
    exec (.uDeselect 3#2) s = .refused .microOpDeviceThree

/-- R345: a delay is logged and nothing else changes; the words carry the ids of its table. -/
def Obligations.DelayOnlyLogs : Prop :=
  decodeMicro 0x3000#16 = .ok (.uDelay .tCss) ∧ decodeMicro 0x3001#16 = .ok (.uDelay .tCsh) ∧
  decodeMicro 0x3002#16 = .ok (.uDelay .tResetSettle) ∧ decodeMicro 0x3003#16 = .ok (.uDelay .tPllLock) ∧
  ∀ (s : State) (id : DelayId), exec (.uDelay id) s = .next { s with spiLog := s.spiLog ++ [.delay id] }

/-- R180 and R52 under Unconstrained: the byte received is a draw, it goes to `st.spiRx` and the log, and no cell
changes (notes/assumptions/5.md). The frame moves on one byte (notes/assumptions/13.md). -/
def Obligations.XferUnderUnconstrainedDrawsItsReply : Prop :=
  ∀ (s : State) (b : Byte), s.options.bridgeModel = .unconstrained →
    exec (.uXfer b) s = .next { s with
      spiRx := some (Config.freeByte s.draws)
      spiLog := s.spiLog ++ [.xfer b (Config.freeByte s.draws)]
      spiFrame := match s.spiFrame with
        | .closed => .closed
        | .opened => .commanded (cmdDir b) (cmdChan b) (cmdReg b)
        | .commanded _ _ _ => .ended
        | .ended => .ended
      draws := s.draws + 1 }

/-- R189 under TestDouble: the second exchange of a write frame sets its cell on the selected device and no other, and the
second exchange of a read frame replies the cell, or a draw if the cell is bottom (notes/assumptions/5.md). -/
def Obligations.SecondExchangeActsOnTheTestDouble : Prop :=
  ∀ (s : State) (d : Device) (c : Chan) (r : Reg) (b : Byte),
    s.options.bridgeModel = .testDouble → selectedSet s = [d] →
    (s.spiFrame = .commanded .write c r → ∃ t, exec (.uXfer b) s = .next t ∧
      t = { s with
        spiRx := some (Config.freeByte s.draws)
        spiLog := s.spiLog ++ [.xfer b (Config.freeByte s.draws)]
        spiFrame := .ended
        bridgeStore := t.bridgeStore
        draws := s.draws + 1 } ∧
      Memory.read t.bridgeStore (cellAddr d c r) = some b ∧
      ∀ a, a ≠ cellAddr d c r → Memory.read t.bridgeStore a = Memory.read s.bridgeStore a) ∧
    (s.spiFrame = .commanded .read c r →
      exec (.uXfer b) s = .next { s with
        spiRx := some ((Memory.read s.bridgeStore (cellAddr d c r)).getD (Config.freeByte s.draws))
        spiLog := s.spiLog ++
          [.xfer b ((Memory.read s.bridgeStore (cellAddr d c r)).getD (Config.freeByte s.draws))]
        spiFrame := .ended
        draws := s.draws + 1 })

/-! ### Frames -/

/-- R182 and R183: the six micro-operations of a write frame and of a read frame, as the sequencer decodes them. -/
def Obligations.FramesAreSixMicroOperations : Prop :=
  ∀ (d : Device) (c : Chan) (r : Reg) (v dummy : Byte),
    (frameWriteWords d c r v).map decodeMicro =
      [.ok (.uSelect d.bits), .ok (.uDelay .tCss), .ok (.uXfer (cmdByte .write c r)), .ok (.uXfer v),
        .ok (.uDelay .tCsh), .ok (.uDeselect d.bits)] ∧
    (frameReadWords d c r dummy).map decodeMicro =
      [.ok (.uSelect d.bits), .ok (.uDelay .tCss), .ok (.uXfer (cmdByte .read c r)), .ok (.uXfer dummy),
        .ok (.uDelay .tCsh), .ok (.uDeselect d.bits)]

/-- R181, R186, R187: six turns of the sequencer carry a whole frame out; it adds its six entries to the log, leaves the
second exchange's byte in `st.spiRx`, the chip-select lines as they were, and everything outside the SPI bus alone. -/
def Obligations.FrameRunsToItsEnd : Prop :=
  ∀ (s : State) (d : Device) (b1 b2 : Byte) (rest : List Turn),
    s.halted = false → selectedSet s = [] → s.spiSeq = frameWords d b1 b2 →
    s.agenda = List.replicate 6 .sequencer ++ rest →
    ∃ t rx1 rx2, runsTo 6 s t ∧
      t = { s with
        agenda := rest
        spiSeq := []
        spiRx := some rx2
        spiLog := s.spiLog ++
          [.select d, .delay .tCss, .xfer b1 rx1, .xfer b2 rx2, .delay .tCsh, .deselect d]
        spiFrame := .closed
        bridgeStore := t.bridgeStore
        draws := s.draws + 2 } ∧
      (∀ a, a ≠ cellAddr d (cmdChan b1) (cmdReg b1) →
        Memory.read t.bridgeStore a = Memory.read s.bridgeStore a) ∧
      (s.options.bridgeModel = .unconstrained → t.bridgeStore = s.bridgeStore) ∧
      (cmdDir b1 = .read → t.bridgeStore = s.bridgeStore)

/-! ### SPI_WRITE and SPI_READ -/

/-- R184, R320: with the bus free the procedure starts and its frame goes to the sequencer, for each device, configured or
not. -/
def Obligations.SpiWriteStartsItsFrame : Prop :=
  ∀ (s : State) (d : Device) (c : Chan) (r : Reg) (v : Byte), s.spiBusy = false →
    exec (.spiWrite d.bits c r v) s = .next { s with
      spiBusy := true, spiSeq := frameWriteWords d c r v, hostOp := [.finish .nothing] }

/-- R185, R320: the frame goes to `RAW_READ_DEVICE` whatever the legal DEV. -/
def Obligations.SpiReadStartsOnTheHardCodedDevice : Prop :=
  ∀ (s : State) (d : Device) (c : Chan) (r : Reg), s.spiBusy = false →
    exec (.spiRead d.bits c r) s = .next { s with
      spiBusy := true
      spiSeq := frameReadWords Config.rawReadDevice c r s.options.dummyByte
      hostOp := [.finish .received] }

/-- R184 from the issuing of the word to the return, with the host and the sequencer alone taking turns: no result value,
one write frame on the log, the bus free again. Under TestDouble the cell holds the byte. -/
def Obligations.SpiWriteRunsToItsEnd : Prop :=
  ∀ (s : State) (d : Device) (c : Chan) (r : Reg) (v : Byte) (rest : List Turn) (ws : List Word) (w : Word),
    s.halted = false → s.spiBusy = false → s.spiSeq = [] → selectedSet s = [] →
    encode (.spiWrite d.bits c r v) = .host w → s.hostWords = w :: ws →
    s.agenda = turnsOf (spiWriteCalls d c r v) ++ rest →
    ∃ t rx1 rx2, runsTo 8 s t ∧ t.agenda = rest ∧ t.hostWords = ws ∧
      t.results = s.results ++ [.nothing] ∧ t.spiBusy = false ∧ t.spiSeq = [] ∧ selectedSet t = [] ∧
      t.spiLog = s.spiLog ++ [.select d, .delay .tCss, .xfer (cmdByte .write c r) rx1, .xfer v rx2,
        .delay .tCsh, .deselect d] ∧
      t.devConfigured = s.devConfigured ∧ t.chDivisor = s.chDivisor ∧ SameI2c s t ∧ t.faults = s.faults ∧
      (s.options.bridgeModel = .testDouble → Memory.read t.bridgeStore (cellAddr d c r) = some v) ∧
      (∀ a, a ≠ cellAddr d c r → Memory.read t.bridgeStore a = Memory.read s.bridgeStore a)

/-- R185 in the same way: the result is the byte received in the second exchange, from `RAW_READ_DEVICE`. -/
def Obligations.SpiReadRunsToItsEnd : Prop :=
  ∀ (s : State) (d : Device) (c : Chan) (r : Reg) (rest : List Turn) (ws : List Word) (w : Word),
    s.halted = false → s.spiBusy = false → s.spiSeq = [] → selectedSet s = [] →
    encode (.spiRead d.bits c r) = .host w → s.hostWords = w :: ws →
    s.agenda = turnsOf (spiReadCalls c r) ++ rest →
    ∃ t rx1 rx2, runsTo 8 s t ∧ t.agenda = rest ∧ t.hostWords = ws ∧
      t.results = s.results ++ [.byte rx2] ∧ t.spiBusy = false ∧ t.spiSeq = [] ∧ selectedSet t = [] ∧
      t.spiLog = s.spiLog ++ [.select Config.rawReadDevice, .delay .tCss, .xfer (cmdByte .read c r) rx1,
        .xfer s.options.dummyByte rx2, .delay .tCsh, .deselect Config.rawReadDevice] ∧
      t.devConfigured = s.devConfigured ∧ t.chDivisor = s.chDivisor ∧ SameI2c s t ∧ t.faults = s.faults ∧
      t.bridgeStore = s.bridgeStore ∧
      (∀ v, s.options.bridgeModel = .testDouble →
        Memory.read s.bridgeStore (cellAddr Config.rawReadDevice c r) = some v → rx2 = v)

/-- R190: against the test double, SPI_WRITE to `RAW_READ_DEVICE` and then SPI_READ with any legal DEV returns the byte
written. -/
def Obligations.WriteThenReadReturnsTheByte : Prop :=
  ∀ (s : State) (d : Device) (c : Chan) (r : Reg) (v : Byte) (rest : List Turn) (ws : List Word) (w1 w2 : Word),
    s.options.bridgeModel = .testDouble →
    s.halted = false → s.spiBusy = false → s.spiSeq = [] → selectedSet s = [] →
    encode (.spiWrite Config.rawReadDevice.bits c r v) = .host w1 → encode (.spiRead d.bits c r) = .host w2 →
    s.hostWords = w1 :: w2 :: ws →
    s.agenda = turnsOf (spiWriteCalls Config.rawReadDevice c r v) ++ turnsOf (spiReadCalls c r) ++ rest →
    ∃ t, runsTo 16 s t ∧ t.results = s.results ++ [.nothing, .byte v] ∧ t.faults = s.faults ∧ t.agenda = rest

/-- R303 for the eight bridge operations: SPI_REENTRY first, then INVALID_DEVICE, then for a port operation
CHANNEL_NOT_CONFIGURED; the fault is recorded with the operation's word and nothing else changes. -/
def Obligations.BridgeOperationsCheckInOrder : Prop :=
  ∀ (s : State) (d : BitVec 2) (c : Chan) (r : Reg) (v : Byte) (rate : Rate) (i : Instr) (w : Word),
    i ∈ [Instr.spiWrite d c r v, .spiRead d c r, .uartInit d rate, .uartSendchar d c v, .uartRecvchar d c,
      .uartAvail d c, .uartGeterr d c, .uartClrerr d c] → encode i = .host w → s.faults = [] →
    (s.spiBusy = true → exec i s = .next { s with faults := [.spiReentry w], halted := true }) ∧
    (s.spiBusy = false → d = 3#2 → exec i s = .next { s with faults := [.invalidDevice w], halted := true }) ∧
    (∀ dev : Device, s.spiBusy = false → d = dev.bits → s.devConfigured.get dev = false →
      i ∈ [Instr.uartSendchar d c v, .uartRecvchar d c, .uartAvail d c, .uartGeterr d c, .uartClrerr d c] →
      exec i s = .next { s with faults := [.channelNotConfigured w], halted := true })

/-! ### The configurator -/

/-- R231, R232 and the two entries of R230: the result is the table's divisor or UNSUPPORTED; 9600 gives 26, and 1 and 0
are not supported; no word with one of bits 27 to 24 set is a lookup. -/
def Obligations.BaudLookupReturnsTheTableEntry : Prop :=
  IllegalWith 0xC#4 0x0F000000#32 ∧
  (∀ rate : Rate, encode (.baudLookup rate) = .host (0xC0000000#32 ||| rate.setWidth 32)) ∧
  (∀ (s : State) (rate : Rate) (div : Half), baudLookup rate = some div →
    exec (.baudLookup rate) s = .next { s with results := s.results ++ [.divisor div] }) ∧
  (∀ (s : State) (rate : Rate), baudLookup rate = none →
    exec (.baudLookup rate) s = .next { s with results := s.results ++ [.unsupported] }) ∧
  baudLookup 9600#24 = some 26#16 ∧ baudLookup 1#24 = none ∧ baudLookup 0#24 = none

/-- R233: an unsupported rate returns INIT_UNSUPPORTED with no bus activity; a supported one clears
`st.devConfigured[d]` and starts the bring-up with the first write of channel 0. -/
def Obligations.UartInitStartsOrReportsUnsupported : Prop :=
  ∀ (s : State) (d : Device) (rate : Rate), s.spiBusy = false →
    (baudLookup rate = none →
      exec (.uartInit d.bits rate) s = .next { s with results := s.results ++ [.initUnsupported] }) ∧
    (∀ div, baudLookup rate = some div →
      exec (.uartInit d.bits rate) s = .next { s with
        spiBusy := true
        devConfigured := s.devConfigured.set d false
        spiSeq := frameWriteWords d 0#2 (Config.cfgFirst .channelReset).1 (Config.cfgFirst .channelReset).2
        hostOp := (uartInitCalls d div).tail })

/-- R246: the write frames, delays and read frames of a supported bring-up, all on its own device. -/
def Obligations.BringUpFrameCounts : Prop :=
  ∀ (d : Device) (div : Half),
    (uartInitCalls d div).countP HostCall.isWriteFrame =
      4 * ((cfgWrites .channelReset).length + (cfgWrites .clockSources).length + (cfgWrites .pllConfig).length + 2 +
        (cfgWrites .lineFormat).length + (cfgWrites .fifoTriggers).length + (cfgWrites .modeRegisters).length +
        (cfgWrites .flowControl).length + (cfgWrites .interruptEnables).length) ∧
    40 ≤ (uartInitCalls d div).countP HostCall.isWriteFrame ∧
    (uartInitCalls d div).countP HostCall.isDelay = 8 ∧
    (uartInitCalls d div).countP HostCall.isReadFrame = 0 ∧
    ∀ k ∈ uartInitCalls d div, k.device = none ∨ k.device = some d

/-- R233, R234, R247: a supported UART_INIT, with the host and the sequencer alone taking turns, ends with the device
configured, its four divisors recorded, INIT_OK returned, the bus free, and the other devices' records untouched. What it
writes on the way is UartInitLogsTheElevenSteps. -/
def Obligations.UartInitRunsToItsEnd : Prop :=
  ∀ (s : State) (d : Device) (rate : Rate) (div : Half) (rest : List Turn) (ws : List Word) (w : Word),
    s.halted = false → s.spiBusy = false → s.spiSeq = [] → selectedSet s = [] →
    baudLookup rate = some div → encode (.uartInit d.bits rate) = .host w → s.hostWords = w :: ws →
    s.agenda = turnsOf (uartInitCalls d div) ++ rest →
    ∃ t, runsTo (turnsOf (uartInitCalls d div)).length s t ∧ t.agenda = rest ∧ t.hostWords = ws ∧
      t.results = s.results ++ [.initOk] ∧ t.spiBusy = false ∧ t.spiSeq = [] ∧ selectedSet t = [] ∧
      t.devConfigured.get d = true ∧ (∀ c, (t.chDivisor.get d).get c = some div) ∧
      (∀ e, e ≠ d → t.devConfigured.get e = s.devConfigured.get e ∧ t.chDivisor.get e = s.chDivisor.get e) ∧
      SameI2c s t ∧ t.faults = s.faults

/-- R233, R234, R240: a supported UART_INIT, with the host and the sequencer alone taking turns, puts on the SPI log the eleven
steps of channels 0, 1, 2, 3 in order, whatever bytes are received. Under TestDouble each cell of its device then holds the
last byte the channel's steps write to its register, or what it held; no cell of another device changes (R189). R249: so
the two divisor cells of each channel hold the divisor's low and high byte, provided no later list entry of the channel
writes their register; the lists are open parameters (notes/assumptions/6.md), so the proviso is R249's own. The agenda is
the model's (notes/assumptions/1.md). -/
def Obligations.UartInitLogsTheElevenSteps : Prop :=
  ∀ (s : State) (d : Device) (rate : Rate) (div : Half) (rest : List Turn) (ws : List Word) (w : Word),
    s.halted = false → s.spiBusy = false → s.spiSeq = [] → selectedSet s = [] →
    baudLookup rate = some div → encode (.uartInit d.bits rate) = .host w → s.hostWords = w :: ws →
    s.agenda = turnsOf (uartInitCalls d div) ++ rest →
    ∃ t l, runsTo (turnsOf (uartInitCalls d div)).length s t ∧ t.spiLog = s.spiLog ++ l ∧
      l.map SpiEvent.sent = bringUpEntries d 0#2 div ++ bringUpEntries d 1#2 div ++ bringUpEntries d 2#2 div ++
        bringUpEntries d 3#2 div ∧
      (s.options.bridgeModel = .testDouble →
        (∀ (c : Chan) (r : Reg), Memory.read t.bridgeStore (cellAddr d c r) =
          (bringUpWrites cfgWrites div).foldl (fun v p => if p.1 = r then some p.2 else v)
            (Memory.read s.bridgeStore (cellAddr d c r))) ∧
        (∀ c : Chan,
          (Config.regDivLsb ∉ writtenAfterDivisor cfgWrites →
            Memory.read t.bridgeStore (cellAddr d c Config.regDivLsb) = some (div.extractLsb' 0 8)) ∧
          (regDivMsb ∉ writtenAfterDivisor cfgWrites →
            Memory.read t.bridgeStore (cellAddr d c regDivMsb) = some (div.extractLsb' 8 8)))) ∧
      ∀ a, (∀ (c : Chan) (r : Reg), a ≠ cellAddr d c r) →
        Memory.read t.bridgeStore a = Memory.read s.bridgeStore a

/-! ### The serial port -/

/-- R260 to R267: on a configured device with the bus free each port operation starts its own frame on its own device. -/
def Obligations.PortOperationsStartTheirFrames : Prop :=
  ∀ (s : State) (d : Device) (c : Chan) (b : Byte), s.spiBusy = false → s.devConfigured.get d = true →
    exec (.uartSendchar d.bits c b) s = .next { s with
      spiBusy := true, spiSeq := frameWriteWords d c Config.regThr b, hostOp := [.finish .nothing] } ∧
    exec (.uartRecvchar d.bits c) s = .next { s with
      spiBusy := true
      spiSeq := frameReadWords d c Config.regRxlvl s.options.dummyByte
      hostOp := [.testLevel, .frameRead d c Config.regRhr, .finish .received] } ∧
    exec (.uartAvail d.bits c) s = .next { s with
      spiBusy := true
      spiSeq := frameReadWords d c Config.regRxlvl s.options.dummyByte
      hostOp := [.finish .nonZero] } ∧
    exec (.uartGeterr d.bits c) s = .next { s with
      spiBusy := true
      spiSeq := frameReadWords d c Config.regLsr s.options.dummyByte
      hostOp := [.finish .maskedErrors] } ∧
    exec (.uartClrerr d.bits c) s = .next { s with
      spiBusy := true
      spiSeq := frameReadWords d c Config.regLsr s.options.dummyByte
      hostOp := [.finish .nothing] }

/-- R262, R265, R266, R267 to their end: one frame, on the port's device, and the result made of the byte it received. -/
def Obligations.OneFramePortOperationsRunToTheirEnd : Prop :=
  ∀ (s : State) (d : Device) (c : Chan) (b b1 b2 : Byte) (k : ReturnKind) (i : Instr) (rest : List Turn)
    (ws : List Word) (w : Word),
    (i, b1, b2, k) ∈ [(Instr.uartSendchar d.bits c b, cmdByte .write c Config.regThr, b, ReturnKind.nothing),
      (.uartAvail d.bits c, cmdByte .read c Config.regRxlvl, s.options.dummyByte, .nonZero),
      (.uartGeterr d.bits c, cmdByte .read c Config.regLsr, s.options.dummyByte, .maskedErrors),
      (.uartClrerr d.bits c, cmdByte .read c Config.regLsr, s.options.dummyByte, .nothing)] →
    s.halted = false → s.spiBusy = false → s.spiSeq = [] → selectedSet s = [] → s.devConfigured.get d = true →
    encode i = .host w → s.hostWords = w :: ws →
    s.agenda = [Turn.host] ++ List.replicate 6 .sequencer ++ [.host] ++ rest →
    ∃ t rx1 rx2, runsTo 8 s t ∧ t.agenda = rest ∧ t.hostWords = ws ∧
      t.results = s.results ++
        [match k with
          | .nonZero => .bit (decide (rx2 ≠ 0#8))
          | .maskedErrors => .byte (rx2 &&& lsrErrMask)
          | _ => .nothing] ∧
      t.spiBusy = false ∧ t.spiSeq = [] ∧ selectedSet t = [] ∧
      t.spiLog = s.spiLog ++
        [.select d, .delay .tCss, .xfer b1 rx1, .xfer b2 rx2, .delay .tCsh, .deselect d] ∧
      t.devConfigured = s.devConfigured ∧ t.chDivisor = s.chDivisor ∧ SameI2c s t ∧ t.faults = s.faults

/-- R264 between its two frames: on level 0 the operation ends with the 0 sentinel and no second frame; on any other level
it goes on to read the receive register. -/
def Obligations.RecvcharDecidesOnTheLevel : Prop :=
  ∀ (s : State) (d : Device) (c : Chan) (lvl : Byte) (rest : List Turn),
    s.halted = false → s.agenda = .host :: .host :: rest → s.spiBusy = true → s.spiSeq = [] → s.spiRx = some lvl →
    s.hostOp = [.testLevel, .frameRead d c Config.regRhr, .finish .received] →
    (lvl = 0#8 → step s = .next { s with
      agenda := .host :: rest, spiBusy := false, hostOp := [], results := s.results ++ [.byte 0#8] }) ∧
    (lvl ≠ 0#8 → runsTo 2 s { s with
      agenda := rest
      spiSeq := frameReadWords d c Config.regRhr s.options.dummyByte
      hostOp := [.finish .received] })

/-- R264 from the issuing of the word to the return against the test double (whose cells are the replies): the level
cell's 0 gives the 0 sentinel after one frame, any other level gives the receive cell's byte after two. -/
def Obligations.RecvcharReturnsTheSentinelOrTheByte : Prop :=
  ∀ (s : State) (d : Device) (c : Chan) (lvl b : Byte) (rest : List Turn) (ws : List Word) (w : Word),
    s.options.bridgeModel = .testDouble →
    s.halted = false → s.spiBusy = false → s.spiSeq = [] → selectedSet s = [] → s.devConfigured.get d = true →
    Memory.read s.bridgeStore (cellAddr d c Config.regRxlvl) = some lvl →
    Memory.read s.bridgeStore (cellAddr d c Config.regRhr) = some b →
    encode (.uartRecvchar d.bits c) = .host w → s.hostWords = w :: ws →
    s.agenda = turnsOf (recvCalls d c) ++ rest →
    (lvl = 0#8 → ∃ t, runsTo 8 s t ∧ t.results = s.results ++ [.byte 0#8] ∧ t.spiBusy = false ∧
      t.spiLog.length = s.spiLog.length + 6 ∧ t.faults = s.faults) ∧
    (lvl ≠ 0#8 → ∃ t, runsTo 16 s t ∧ t.results = s.results ++ [.byte b] ∧ t.spiBusy = false ∧
      t.spiLog.length = s.spiLog.length + 12 ∧ t.faults = s.faults)

/-- R50: the four error bits are distinct, so `LSR_ERR_MASK` has exactly four bits set, and UART_GETERR's result has no
other bit. -/
def Obligations.ErrorMaskHasItsFourDistinctBits : Prop :=
  lsrErrorBits.length = 4 ∧ lsrErrorBits.Nodup ∧
    (∀ n : Fin 8, lsrErrMask.getLsbD n.val = decide (n ∈ lsrErrorBits)) ∧
    ∀ (x : Byte) (n : Fin 8), (lineErrors x).getLsbD n.val = (x.getLsbD n.val && decide (n ∈ lsrErrorBits))

/-! ### Texts -/

/-- R121, R122, R263, R248: lines of text and their words, `uart.puts` as one UART_SENDCHAR per byte, and the boot
sequence. -/
def Obligations.TextLinesStandForTheirWords : Prop :=
  (readLine "i2c.start 0x50, 0x10").map AsmLine.words = some [0x10501000#32] ∧
  (readLine "spi.write A, 1, 0x1C, 156").map AsmLine.words = some [0x411C009C#32] ∧
  (readLine "spi.read B, 1, 0x1C").map AsmLine.words = some [0x551C0000#32] ∧
  (readLine "uart.getc C, 3").map AsmLine.words = some [0x8B000000#32] ∧
  readEvent "ev.rxv 0x42" = some 0x4203#16 ∧
  (∀ (d : Device) (c : Chan) (bs : List Byte),
    (AsmLine.uartPuts d c bs).words.map decodeHost = bs.map fun b => .ok (.uartSendchar d.bits c b)) ∧
  bootWords.map decodeHost = [.ok (.uartInit 0#2 Config.bootRate), .ok (.uartInit 1#2 Config.bootRate),
    .ok (.uartInit 2#2 Config.bootRate)]

/-! ### Faults -/

/-- R300 and R302: an instruction that changes `st.faults` adds exactly one record to it, halts the block, and changes
nothing else. -/
def Obligations.FaultsArePrecise : Prop :=
  ∀ (i : Instr) (s t : State), exec i s = .next t → t.faults ≠ s.faults → ∃ f, f ∉ s.faults ∧ OnlyFault f s t

/-! ### Invariants of every step -/

/-- The invariants hold after reset. -/
def Obligations.ResetMeetsTheInvariants : Prop :=
  AtMostOneSelected State.reset ∧ StoreCanonical State.reset ∧ HaltedIffFault State.reset ∧
    FaultsAreSet State.reset ∧ TransactionHeld State.reset ∧ Disciplined State.reset ∧ NoFault State.reset

/-- R213: at most one chip-select line is selected, after every step of every agent, a bench turn too. -/
def Obligations.StepKeepsAtMostOneSelected : Prop :=
  ∀ s t : State, AtMostOneSelected s → step s = .next t → AtMostOneSelected t

/-- The test double's store keeps its canonical form (the model's own representation: notes/assumptions/11.md). -/
def Obligations.StepKeepsTheStoreCanonical : Prop :=
  ∀ s t : State, StoreCanonical s → step s = .next t → StoreCanonical t

/-- R47, R300: the halted bit is set exactly when a fault is recorded, and `st.faults` stays a set. -/
def Obligations.StepKeepsHaltedIffFault : Prop :=
  ∀ s t : State, HaltedIffFault s → FaultsAreSet s → step s = .next t → HaltedIffFault t ∧ FaultsAreSet t

/-- R33, R34, R35: outside Idle the transaction's target and register are held, and in WaitStop its byte. R142: outside Idle
the completion flag is clear. R83, R84: when it is set and no nack ended the transaction, a byte is held. -/
def Obligations.StepKeepsTheTransactionHeld : Prop :=
  ∀ s t : State, TransactionHeld s → step s = .next t → TransactionHeld t

/-- R215, R293, R294: in a run of the spec's own agents the frames stay bracketed, and no step raises CS_CONFLICT or
SPI_REENTRY. -/
def Obligations.DisciplinedRunsNeverConflict : Prop :=
  ∀ s t : State, Disciplined s → step s = .next t →
    Disciplined t ∧
      ∀ f ∈ t.faults, f ∈ s.faults ∨ ((∀ d l, f ≠ .csConflict d l) ∧ ∀ w, f ≠ .spiReentry w)

/-- R320, R321: in a run of the spec's own agents a block that is not halted and has a turn to come always answers a next
state: no refusal, no stop. -/
def Obligations.DisciplinedStepAnswersNext : Prop :=
  ∀ (s : State), Disciplined s → s.halted = false → s.agenda ≠ [] → ∃ t, step s = .next t

/-! ### Whole-machine rules -/

/-- R38 and R43: both logs are appended to and never removed from. R47: a fault is never removed; that a new record comes
last in the list is the model's form of the set (notes/assumptions/8.md). -/
def Obligations.LogsOnlyGrow : Prop :=
  ∀ s t : State, step s = .next t → s.i2cLog <+: t.i2cLog ∧ s.spiLog <+: t.spiLog ∧ s.faults <+: t.faults

/-- R155: no SPI, UART or micro-operation and no command byte writes I2C state, and no I2C operation, event, bus command
or address byte writes SPI or channel state. So too of the turns: an engine turn writes no SPI state, a sequencer turn and a
turn of the blocked host write no I2C state, and a rejected word writes neither. -/
def Obligations.EngineAndSpiAreIndependent : Prop :=
  (∀ (i : Instr) (s t : State), exec i s = .next t →
    (match i with
      | .i2cStart _ _ | .i2cIsdone | .i2cGetbyte | .i2cAddrW _ | .i2cAddrR _ | .bcStartW _ | .bcWrite _
      | .bcRstartR _ | .bcNackStop | .bcStop | .evAck | .evNack | .evTxe | .evRxv _ | .evStopd =>
        SameSpi s t ∧ t.bridgeStore = s.bridgeStore
      | _ => SameI2c s t)) ∧
  (∀ (p : PortWord) (s t : State), rejectWord p s = .next t →
    SameI2c s t ∧ SameSpi s t ∧ t.bridgeStore = s.bridgeStore) ∧
  ∀ (s t : State) (rest : List Turn), step s = .next t →
    (s.agenda = .engine :: rest → SameSpi s t ∧ t.bridgeStore = s.bridgeStore) ∧
    (s.agenda = .sequencer :: rest → SameI2c s t) ∧
    (s.agenda = .host :: rest → s.spiBusy = true → SameI2c s t)

/-- R44, R45, R48: a divisor changes only at UART_INIT's record of it, and a configured flag only where UART_INIT starts
(it clears its device's) or where its procedure ends (it sets its device's). That the record and the setting are host turns
of their own, so that no instruction writes a divisor at its own step, is the model's (notes/assumptions/12.md). No step of
any agent changes the settings (notes/assumptions/7.md). -/
def Obligations.OnlyUartInitTouchesTheChannelTable : Prop :=
  (∀ (i : Instr) (s t : State), exec i s = .next t →
    t.chDivisor = s.chDivisor ∧ (t.devConfigured ≠ s.devConfigured → ∃ d rate, i = .uartInit d rate)) ∧
  ∀ s t : State, step s = .next t →
    t.options = s.options ∧
    (t.chDivisor ≠ s.chDivisor → ∃ d c div, NextCall s (.recordDivisor d c div) ∧
      t.chDivisor = s.chDivisor.set d ((s.chDivisor.get d).set c (some div))) ∧
    (t.devConfigured ≠ s.devConfigured → ∃ d : Device,
      (NextCall s (.markConfigured d) ∧ t.devConfigured = s.devConfigured.set d true) ∨
      ∃ w rate, NextHostWord s w ∧ decodeHost w = .ok (.uartInit d.bits rate) ∧
        t.devConfigured = s.devConfigured.set d false)
end

