-- ==== Sys2Proof/Laws/Decode.lean ====
section
/-! SUPPORT. What the sequencer reads back from the micro-operation words the frame procedures write, and the fields of
an SPI command byte (spec/30_encoding.md R110, R115). -/

namespace Sys2Proof

@[simp] theorem device_ofBits_bits (d : Device) : Device.ofBits d.bits = some d := by cases d <;> rfl

theorem device_ofBits_none (b : BitVec 2) : Device.ofBits b = none ↔ b = 3#2 := by revert b; decide

theorem device_bits_of_ofBits (b : BitVec 2) (d : Device) (h : Device.ofBits b = some d) : d.bits = b := by
  revert b; cases d <;> decide

@[simp] theorem delayId_ofBits_bits (id : DelayId) : DelayId.ofBits id.bits = id := by cases id <;> rfl

@[simp] theorem decodeMicro_selectWord (d : Device) : decodeMicro (selectWord d.bits) = .ok (.uSelect d.bits) := by
  cases d <;> rfl

@[simp] theorem decodeMicro_deselectWord (d : Device) :
    decodeMicro (deselectWord d.bits) = .ok (.uDeselect d.bits) := by cases d <;> rfl

@[simp] theorem decodeMicro_delayWord (id : DelayId) : decodeMicro (delayWord id) = .ok (.uDelay id) := by
  cases id <;> rfl

@[simp] theorem decodeMicro_xferWord (b : Byte) : decodeMicro (xferWord b) = .ok (.uXfer b) := by
  revert b; decide

@[simp] theorem cmdDir_cmdByte (dir : Dir) (c : Chan) (r : Reg) : cmdDir (cmdByte dir c r) = dir := by
  cases dir <;> revert c r <;> decide

@[simp] theorem cmdChan_cmdByte (dir : Dir) (c : Chan) (r : Reg) : cmdChan (cmdByte dir c r) = c := by
  cases dir <;> revert c r <;> decide

@[simp] theorem cmdReg_cmdByte (dir : Dir) (c : Chan) (r : Reg) : cmdReg (cmdByte dir c r) = r := by
  cases dir <;> revert c r <;> decide

end Sys2Proof
end

