-- ==== Sys2Proof/Laws/Fetch.lean ====
section
/-! SUPPORT. What each turn comes to (spec/60_exceptions.md R300, R320, R321), said once per case of `fetch`. -/

namespace Sys2Proof.Machine

theorem fetch_halted (s : State) (h : s.halted = true) : fetch s = .stuck .halted := by
  simp [fetch, h]

theorem fetch_no_turn (s : State) (h : s.halted = false) (ha : s.agenda = []) : fetch s = .stuck .noTurn := by
  simp [fetch, h, ha]

theorem fetch_host_issues (s : State) (rest : List Turn) (w : Word) (ws : List Word) (h : s.halted = false)
    (ha : s.agenda = .host :: rest) (hb : s.spiBusy = false) (hw : s.hostWords = w :: ws) :
    fetch s = .word (.host w) { s with agenda := rest, hostWords := ws } := by
  simp [fetch, h, ha, hostTurn, hb, hw]

theorem fetch_host_idle (s : State) (rest : List Turn) (h : s.halted = false) (ha : s.agenda = .host :: rest)
    (hb : s.spiBusy = false) (hw : s.hostWords = []) : fetch s = .moved { s with agenda := rest } := by
  simp [fetch, h, ha, hostTurn, hb, hw]

theorem fetch_host_resumes (s : State) (rest : List Turn) (h : s.halted = false) (ha : s.agenda = .host :: rest)
    (hb : s.spiBusy = true) (hq : s.spiSeq = []) :
    fetch s = .moved (runCalls s.hostOp { s with agenda := rest }) := by
  simp [fetch, h, ha, hostTurn, hb, hq]

theorem fetch_host_blocked (s : State) (rest : List Turn) (h : s.halted = false) (ha : s.agenda = .host :: rest)
    (hb : s.spiBusy = true) (hq : s.spiSeq ≠ []) : fetch s = .moved { s with agenda := rest } := by
  simp [fetch, h, ha, hostTurn, hb, hq]

theorem fetch_engine (s : State) (rest : List Turn) (e : Half) (es : List Half) (h : s.halted = false)
    (ha : s.agenda = .engine :: rest) (he : s.events = e :: es) :
    fetch s = .word (.event e) { s with agenda := rest, events := es } := by
  simp [fetch, h, ha, engineTurn, he]

theorem fetch_engine_idle (s : State) (rest : List Turn) (h : s.halted = false) (ha : s.agenda = .engine :: rest)
    (he : s.events = []) : fetch s = .moved { s with agenda := rest } := by
  simp [fetch, h, ha, engineTurn, he]

theorem fetch_sequencer (s : State) (rest : List Turn) (u : Half) (us : List Half) (h : s.halted = false)
    (ha : s.agenda = .sequencer :: rest) (hq : s.spiSeq = u :: us) :
    fetch s = .word (.micro u) { s with agenda := rest, spiSeq := us } := by
  simp [fetch, h, ha, sequencerTurn, hq]

theorem fetch_sequencer_idle (s : State) (rest : List Turn) (h : s.halted = false)
    (ha : s.agenda = .sequencer :: rest) (hq : s.spiSeq = []) : fetch s = .moved { s with agenda := rest } := by
  simp [fetch, h, ha, sequencerTurn, hq]

theorem fetch_bench (s : State) (rest : List Turn) (p : PortWord) (h : s.halted = false)
    (ha : s.agenda = .bench p :: rest) : fetch s = .word p { s with agenda := rest } := by
  simp [fetch, h, ha]

end Sys2Proof.Machine
end

