-- ==== Sys2Proof/Laws/Memory.lean ====
section
/-! SUPPORT. The test double's store: a read after a write, every other cell left alone, and the canonical form kept by
every operation (spec/10_state.md R53). -/

namespace Sys2Proof.Machine

/-- A read of the address just written gives the byte written. -/
theorem Memory.read_write_same (m : List Host.Cell) (a : Nat) (v : Byte) :
    Memory.read (Memory.write m a v) a = some v := by
  induction m with
  | nil => simp [Memory.write, Memory.read]
  | cons p m ih =>
    obtain ⟨b, w⟩ := p
    simp only [Memory.write]
    split
    · simp [Memory.read]
    · split
      · simp [Memory.read]
      · simp [Memory.read, *]

/-- A write leaves every other address alone. -/
theorem Memory.read_write_other (m : List Host.Cell) (a b : Nat) (v : Byte) (h : b ≠ a) :
    Memory.read (Memory.write m a v) b = Memory.read m b := by
  induction m with
  | nil => simp [Memory.write, Memory.read, h]
  | cons p m ih =>
    obtain ⟨c, w⟩ := p
    simp only [Memory.write]
    split
    · simp [Memory.read, h]
    · split
      · next _ heq => subst heq; simp [Memory.read, h]
      · simp only [Memory.read, ih]

/-- The addresses a write can leave in the list. -/
theorem Memory.mem_write (m : List Host.Cell) (a : Nat) (v : Byte) (p : Host.Cell) (h : p ∈ Memory.write m a v) :
    p = (a, v) ∨ p ∈ m := by
  induction m with
  | nil => simpa [Memory.write] using h
  | cons q m ih =>
    obtain ⟨c, w⟩ := q
    simp only [Memory.write] at h
    split at h
    · simpa using h
    · split at h
      · rcases List.mem_cons.1 h with h | h <;> simp [h]
      · rcases List.mem_cons.1 h with h | h
        · simp [h]
        · rcases ih h with h | h <;> simp [h]

/-- A write inside the register space keeps the canonical form. -/
theorem Memory.write_wf (m : List Host.Cell) (a : Nat) (v : Byte) (ha : a < cellCount) (h : Memory.wf m) :
    Memory.wf (Memory.write m a v) := by
  refine ⟨?_, fun p hp => ?_⟩
  · have hs := h.1
    clear h ha
    induction m with
    | nil => simp [Memory.write]
    | cons q m ih =>
      obtain ⟨c, w⟩ := q
      rw [List.pairwise_cons] at hs
      simp only [Memory.write]
      split
      · next hlt =>
        refine List.pairwise_cons.2 ⟨fun p hp => ?_, List.pairwise_cons.2 hs⟩
        rcases List.mem_cons.1 hp with hp | hp
        · simpa [hp] using hlt
        · exact lt_trans hlt (hs.1 p hp)
      · split
        · next heq => subst heq; exact List.pairwise_cons.2 hs
        · refine List.pairwise_cons.2 ⟨fun p hp => ?_, ih hs.2⟩
          rcases Memory.mem_write m a v p hp with hp | hp
          · subst hp; simp only; omega
          · exact hs.1 p hp
  · rcases Memory.mem_write m a v p hp with hp | hp
    · simpa [hp] using ha
    · exact h.2 p hp

/-- Every cell of the register space has an address inside it (R70). -/
theorem cellAddr_lt (d : Device) (c : Chan) (r : Reg) : cellAddr d c r < cellCount := by
  have hc := c.isLt
  have hr := r.isLt
  cases d <;> simp [cellAddr, cellCount, Device.bits] <;> omega

/-- Two cells with one address are one cell (R70). -/
theorem cellAddr_inj (d d' : Device) (c c' : Chan) (r r' : Reg) (h : cellAddr d c r = cellAddr d' c' r') :
    d = d' ∧ c = c' ∧ r = r' := by
  have hc := c.isLt
  have hr := r.isLt
  have hc' := c'.isLt
  have hr' := r'.isLt
  simp only [cellAddr] at h
  have hd : d.bits.toNat = d'.bits.toNat := by omega
  refine ⟨?_, BitVec.eq_of_toNat_eq (by omega), BitVec.eq_of_toNat_eq (by omega)⟩
  revert hd
  cases d <;> cases d' <;> simp [Device.bits]

/-- The store after reset is canonical. -/
theorem reset_store_wf : Memory.wf State.reset.bridgeStore := by decide

/-- An exchange keeps the canonical form (R189). -/
theorem exchangeStore_wf (b : Byte) (s : State) (h : Memory.wf s.bridgeStore) : Memory.wf (exchangeStore b s) := by
  unfold exchangeStore
  split
  · next _ a _ hc =>
    refine Memory.write_wf _ _ _ ?_ h
    unfold frameCell at hc
    split at hc
    · simp only [Option.some.injEq, Prod.mk.injEq] at hc
      rw [← hc.2]
      exact cellAddr_lt _ _ _
    · simp at hc
  · exact h

end Sys2Proof.Machine
end

