-- ==== Sys2Proof/Laws/State.lean ====
section
/-! SUPPORT. One lemma per field of State for each shared update, true by rfl, so that no later proof unfolds a record
update. -/

namespace Sys2Proof.Machine

/-! ### raiseFault -/

@[simp] theorem raiseFault_i2cState (f : FaultRecord) (s : State) : (raiseFault f s).i2cState = s.i2cState := rfl
@[simp] theorem raiseFault_i2cTarget (f : FaultRecord) (s : State) : (raiseFault f s).i2cTarget = s.i2cTarget := rfl
@[simp] theorem raiseFault_i2cReg (f : FaultRecord) (s : State) : (raiseFault f s).i2cReg = s.i2cReg := rfl
@[simp] theorem raiseFault_i2cLastByte (f : FaultRecord) (s : State) :
    (raiseFault f s).i2cLastByte = s.i2cLastByte := rfl
@[simp] theorem raiseFault_i2cDone (f : FaultRecord) (s : State) : (raiseFault f s).i2cDone = s.i2cDone := rfl
@[simp] theorem raiseFault_i2cNackEnd (f : FaultRecord) (s : State) :
    (raiseFault f s).i2cNackEnd = s.i2cNackEnd := rfl
@[simp] theorem raiseFault_i2cLog (f : FaultRecord) (s : State) : (raiseFault f s).i2cLog = s.i2cLog := rfl
@[simp] theorem raiseFault_csSel (f : FaultRecord) (s : State) : (raiseFault f s).csSel = s.csSel := rfl
@[simp] theorem raiseFault_spiBusy (f : FaultRecord) (s : State) : (raiseFault f s).spiBusy = s.spiBusy := rfl
@[simp] theorem raiseFault_spiSeq (f : FaultRecord) (s : State) : (raiseFault f s).spiSeq = s.spiSeq := rfl
@[simp] theorem raiseFault_spiRx (f : FaultRecord) (s : State) : (raiseFault f s).spiRx = s.spiRx := rfl
@[simp] theorem raiseFault_spiLog (f : FaultRecord) (s : State) : (raiseFault f s).spiLog = s.spiLog := rfl
@[simp] theorem raiseFault_devConfigured (f : FaultRecord) (s : State) :
    (raiseFault f s).devConfigured = s.devConfigured := rfl
@[simp] theorem raiseFault_chDivisor (f : FaultRecord) (s : State) : (raiseFault f s).chDivisor = s.chDivisor := rfl
@[simp] theorem raiseFault_faults (f : FaultRecord) (s : State) :
    (raiseFault f s).faults = if f ∈ s.faults then s.faults else s.faults ++ [f] := rfl
@[simp] theorem raiseFault_halted (f : FaultRecord) (s : State) : (raiseFault f s).halted = true := rfl
@[simp] theorem raiseFault_bridgeStore (f : FaultRecord) (s : State) :
    (raiseFault f s).bridgeStore = s.bridgeStore := rfl
@[simp] theorem raiseFault_events (f : FaultRecord) (s : State) : (raiseFault f s).events = s.events := rfl
@[simp] theorem raiseFault_hostOp (f : FaultRecord) (s : State) : (raiseFault f s).hostOp = s.hostOp := rfl
@[simp] theorem raiseFault_spiFrame (f : FaultRecord) (s : State) : (raiseFault f s).spiFrame = s.spiFrame := rfl
@[simp] theorem raiseFault_hostWords (f : FaultRecord) (s : State) : (raiseFault f s).hostWords = s.hostWords := rfl
@[simp] theorem raiseFault_results (f : FaultRecord) (s : State) : (raiseFault f s).results = s.results := rfl
@[simp] theorem raiseFault_agenda (f : FaultRecord) (s : State) : (raiseFault f s).agenda = s.agenda := rfl
@[simp] theorem raiseFault_draws (f : FaultRecord) (s : State) : (raiseFault f s).draws = s.draws := rfl
@[simp] theorem raiseFault_options (f : FaultRecord) (s : State) : (raiseFault f s).options = s.options := rfl

/-! ### giveResult -/

@[simp] theorem giveResult_i2cState (r : HostResult) (s : State) : (giveResult r s).i2cState = s.i2cState := rfl
@[simp] theorem giveResult_i2cTarget (r : HostResult) (s : State) : (giveResult r s).i2cTarget = s.i2cTarget := rfl
@[simp] theorem giveResult_i2cReg (r : HostResult) (s : State) : (giveResult r s).i2cReg = s.i2cReg := rfl
@[simp] theorem giveResult_i2cLastByte (r : HostResult) (s : State) :
    (giveResult r s).i2cLastByte = s.i2cLastByte := rfl
@[simp] theorem giveResult_i2cDone (r : HostResult) (s : State) : (giveResult r s).i2cDone = s.i2cDone := rfl
@[simp] theorem giveResult_i2cNackEnd (r : HostResult) (s : State) : (giveResult r s).i2cNackEnd = s.i2cNackEnd := rfl
@[simp] theorem giveResult_i2cLog (r : HostResult) (s : State) : (giveResult r s).i2cLog = s.i2cLog := rfl
@[simp] theorem giveResult_csSel (r : HostResult) (s : State) : (giveResult r s).csSel = s.csSel := rfl
@[simp] theorem giveResult_spiBusy (r : HostResult) (s : State) : (giveResult r s).spiBusy = s.spiBusy := rfl
@[simp] theorem giveResult_spiSeq (r : HostResult) (s : State) : (giveResult r s).spiSeq = s.spiSeq := rfl
@[simp] theorem giveResult_spiRx (r : HostResult) (s : State) : (giveResult r s).spiRx = s.spiRx := rfl
@[simp] theorem giveResult_spiLog (r : HostResult) (s : State) : (giveResult r s).spiLog = s.spiLog := rfl
@[simp] theorem giveResult_devConfigured (r : HostResult) (s : State) :
    (giveResult r s).devConfigured = s.devConfigured := rfl
@[simp] theorem giveResult_chDivisor (r : HostResult) (s : State) : (giveResult r s).chDivisor = s.chDivisor := rfl
@[simp] theorem giveResult_faults (r : HostResult) (s : State) : (giveResult r s).faults = s.faults := rfl
@[simp] theorem giveResult_halted (r : HostResult) (s : State) : (giveResult r s).halted = s.halted := rfl
@[simp] theorem giveResult_bridgeStore (r : HostResult) (s : State) :
    (giveResult r s).bridgeStore = s.bridgeStore := rfl
@[simp] theorem giveResult_events (r : HostResult) (s : State) : (giveResult r s).events = s.events := rfl
@[simp] theorem giveResult_hostOp (r : HostResult) (s : State) : (giveResult r s).hostOp = s.hostOp := rfl
@[simp] theorem giveResult_spiFrame (r : HostResult) (s : State) : (giveResult r s).spiFrame = s.spiFrame := rfl
@[simp] theorem giveResult_hostWords (r : HostResult) (s : State) : (giveResult r s).hostWords = s.hostWords := rfl
@[simp] theorem giveResult_results (r : HostResult) (s : State) : (giveResult r s).results = s.results ++ [r] := rfl
@[simp] theorem giveResult_agenda (r : HostResult) (s : State) : (giveResult r s).agenda = s.agenda := rfl
@[simp] theorem giveResult_draws (r : HostResult) (s : State) : (giveResult r s).draws = s.draws := rfl
@[simp] theorem giveResult_options (r : HostResult) (s : State) : (giveResult r s).options = s.options := rfl

/-! ### drawn -/

@[simp] theorem drawn_i2cState (n : Nat) (s : State) : (drawn n s).i2cState = s.i2cState := rfl
@[simp] theorem drawn_i2cTarget (n : Nat) (s : State) : (drawn n s).i2cTarget = s.i2cTarget := rfl
@[simp] theorem drawn_i2cReg (n : Nat) (s : State) : (drawn n s).i2cReg = s.i2cReg := rfl
@[simp] theorem drawn_i2cLastByte (n : Nat) (s : State) : (drawn n s).i2cLastByte = s.i2cLastByte := rfl
@[simp] theorem drawn_i2cDone (n : Nat) (s : State) : (drawn n s).i2cDone = s.i2cDone := rfl
@[simp] theorem drawn_i2cNackEnd (n : Nat) (s : State) : (drawn n s).i2cNackEnd = s.i2cNackEnd := rfl
@[simp] theorem drawn_i2cLog (n : Nat) (s : State) : (drawn n s).i2cLog = s.i2cLog := rfl
@[simp] theorem drawn_csSel (n : Nat) (s : State) : (drawn n s).csSel = s.csSel := rfl
@[simp] theorem drawn_spiBusy (n : Nat) (s : State) : (drawn n s).spiBusy = s.spiBusy := rfl
@[simp] theorem drawn_spiSeq (n : Nat) (s : State) : (drawn n s).spiSeq = s.spiSeq := rfl
@[simp] theorem drawn_spiRx (n : Nat) (s : State) : (drawn n s).spiRx = s.spiRx := rfl
@[simp] theorem drawn_spiLog (n : Nat) (s : State) : (drawn n s).spiLog = s.spiLog := rfl
@[simp] theorem drawn_devConfigured (n : Nat) (s : State) : (drawn n s).devConfigured = s.devConfigured := rfl
@[simp] theorem drawn_chDivisor (n : Nat) (s : State) : (drawn n s).chDivisor = s.chDivisor := rfl
@[simp] theorem drawn_faults (n : Nat) (s : State) : (drawn n s).faults = s.faults := rfl
@[simp] theorem drawn_halted (n : Nat) (s : State) : (drawn n s).halted = s.halted := rfl
@[simp] theorem drawn_bridgeStore (n : Nat) (s : State) : (drawn n s).bridgeStore = s.bridgeStore := rfl
@[simp] theorem drawn_events (n : Nat) (s : State) : (drawn n s).events = s.events := rfl
@[simp] theorem drawn_hostOp (n : Nat) (s : State) : (drawn n s).hostOp = s.hostOp := rfl
@[simp] theorem drawn_spiFrame (n : Nat) (s : State) : (drawn n s).spiFrame = s.spiFrame := rfl
@[simp] theorem drawn_hostWords (n : Nat) (s : State) : (drawn n s).hostWords = s.hostWords := rfl
@[simp] theorem drawn_results (n : Nat) (s : State) : (drawn n s).results = s.results := rfl
@[simp] theorem drawn_agenda (n : Nat) (s : State) : (drawn n s).agenda = s.agenda := rfl
@[simp] theorem drawn_draws (n : Nat) (s : State) : (drawn n s).draws = s.draws + n := rfl
@[simp] theorem drawn_options (n : Nat) (s : State) : (drawn n s).options = s.options := rfl

/-! ### i2cIssue -/

@[simp] theorem i2cIssue_i2cState (c : BusCmd) (s : State) : (i2cIssue c s).i2cState = s.i2cState := rfl
@[simp] theorem i2cIssue_i2cTarget (c : BusCmd) (s : State) : (i2cIssue c s).i2cTarget = s.i2cTarget := rfl
@[simp] theorem i2cIssue_i2cReg (c : BusCmd) (s : State) : (i2cIssue c s).i2cReg = s.i2cReg := rfl
@[simp] theorem i2cIssue_i2cLastByte (c : BusCmd) (s : State) : (i2cIssue c s).i2cLastByte = s.i2cLastByte := rfl
@[simp] theorem i2cIssue_i2cDone (c : BusCmd) (s : State) : (i2cIssue c s).i2cDone = s.i2cDone := rfl
@[simp] theorem i2cIssue_i2cNackEnd (c : BusCmd) (s : State) : (i2cIssue c s).i2cNackEnd = s.i2cNackEnd := rfl
@[simp] theorem i2cIssue_i2cLog (c : BusCmd) (s : State) : (i2cIssue c s).i2cLog = s.i2cLog ++ [c] := rfl
@[simp] theorem i2cIssue_csSel (c : BusCmd) (s : State) : (i2cIssue c s).csSel = s.csSel := rfl
@[simp] theorem i2cIssue_spiBusy (c : BusCmd) (s : State) : (i2cIssue c s).spiBusy = s.spiBusy := rfl
@[simp] theorem i2cIssue_spiSeq (c : BusCmd) (s : State) : (i2cIssue c s).spiSeq = s.spiSeq := rfl
@[simp] theorem i2cIssue_spiRx (c : BusCmd) (s : State) : (i2cIssue c s).spiRx = s.spiRx := rfl
@[simp] theorem i2cIssue_spiLog (c : BusCmd) (s : State) : (i2cIssue c s).spiLog = s.spiLog := rfl
@[simp] theorem i2cIssue_devConfigured (c : BusCmd) (s : State) :
    (i2cIssue c s).devConfigured = s.devConfigured := rfl
@[simp] theorem i2cIssue_chDivisor (c : BusCmd) (s : State) : (i2cIssue c s).chDivisor = s.chDivisor := rfl
@[simp] theorem i2cIssue_faults (c : BusCmd) (s : State) : (i2cIssue c s).faults = s.faults := rfl
@[simp] theorem i2cIssue_halted (c : BusCmd) (s : State) : (i2cIssue c s).halted = s.halted := rfl
@[simp] theorem i2cIssue_bridgeStore (c : BusCmd) (s : State) : (i2cIssue c s).bridgeStore = s.bridgeStore := rfl
@[simp] theorem i2cIssue_events (c : BusCmd) (s : State) : (i2cIssue c s).events = s.events := rfl
@[simp] theorem i2cIssue_hostOp (c : BusCmd) (s : State) : (i2cIssue c s).hostOp = s.hostOp := rfl
@[simp] theorem i2cIssue_spiFrame (c : BusCmd) (s : State) : (i2cIssue c s).spiFrame = s.spiFrame := rfl
@[simp] theorem i2cIssue_hostWords (c : BusCmd) (s : State) : (i2cIssue c s).hostWords = s.hostWords := rfl
@[simp] theorem i2cIssue_results (c : BusCmd) (s : State) : (i2cIssue c s).results = s.results := rfl
@[simp] theorem i2cIssue_agenda (c : BusCmd) (s : State) : (i2cIssue c s).agenda = s.agenda := rfl
@[simp] theorem i2cIssue_draws (c : BusCmd) (s : State) : (i2cIssue c s).draws = s.draws := rfl
@[simp] theorem i2cIssue_options (c : BusCmd) (s : State) : (i2cIssue c s).options = s.options := rfl

/-! ### logDelay -/

@[simp] theorem logDelay_i2cState (id : DelayId) (s : State) : (logDelay id s).i2cState = s.i2cState := rfl
@[simp] theorem logDelay_i2cTarget (id : DelayId) (s : State) : (logDelay id s).i2cTarget = s.i2cTarget := rfl
@[simp] theorem logDelay_i2cReg (id : DelayId) (s : State) : (logDelay id s).i2cReg = s.i2cReg := rfl
@[simp] theorem logDelay_i2cLastByte (id : DelayId) (s : State) : (logDelay id s).i2cLastByte = s.i2cLastByte := rfl
@[simp] theorem logDelay_i2cDone (id : DelayId) (s : State) : (logDelay id s).i2cDone = s.i2cDone := rfl
@[simp] theorem logDelay_i2cNackEnd (id : DelayId) (s : State) : (logDelay id s).i2cNackEnd = s.i2cNackEnd := rfl
@[simp] theorem logDelay_i2cLog (id : DelayId) (s : State) : (logDelay id s).i2cLog = s.i2cLog := rfl
@[simp] theorem logDelay_csSel (id : DelayId) (s : State) : (logDelay id s).csSel = s.csSel := rfl
@[simp] theorem logDelay_spiBusy (id : DelayId) (s : State) : (logDelay id s).spiBusy = s.spiBusy := rfl
@[simp] theorem logDelay_spiSeq (id : DelayId) (s : State) : (logDelay id s).spiSeq = s.spiSeq := rfl
@[simp] theorem logDelay_spiRx (id : DelayId) (s : State) : (logDelay id s).spiRx = s.spiRx := rfl
@[simp] theorem logDelay_spiLog (id : DelayId) (s : State) : (logDelay id s).spiLog = s.spiLog ++ [.delay id] := rfl
@[simp] theorem logDelay_devConfigured (id : DelayId) (s : State) :
    (logDelay id s).devConfigured = s.devConfigured := rfl
@[simp] theorem logDelay_chDivisor (id : DelayId) (s : State) : (logDelay id s).chDivisor = s.chDivisor := rfl
@[simp] theorem logDelay_faults (id : DelayId) (s : State) : (logDelay id s).faults = s.faults := rfl
@[simp] theorem logDelay_halted (id : DelayId) (s : State) : (logDelay id s).halted = s.halted := rfl
@[simp] theorem logDelay_bridgeStore (id : DelayId) (s : State) : (logDelay id s).bridgeStore = s.bridgeStore := rfl
@[simp] theorem logDelay_events (id : DelayId) (s : State) : (logDelay id s).events = s.events := rfl
@[simp] theorem logDelay_hostOp (id : DelayId) (s : State) : (logDelay id s).hostOp = s.hostOp := rfl
@[simp] theorem logDelay_spiFrame (id : DelayId) (s : State) : (logDelay id s).spiFrame = s.spiFrame := rfl
@[simp] theorem logDelay_hostWords (id : DelayId) (s : State) : (logDelay id s).hostWords = s.hostWords := rfl
@[simp] theorem logDelay_results (id : DelayId) (s : State) : (logDelay id s).results = s.results := rfl
@[simp] theorem logDelay_agenda (id : DelayId) (s : State) : (logDelay id s).agenda = s.agenda := rfl
@[simp] theorem logDelay_draws (id : DelayId) (s : State) : (logDelay id s).draws = s.draws := rfl
@[simp] theorem logDelay_options (id : DelayId) (s : State) : (logDelay id s).options = s.options := rfl

/-! ### exchangeByte -/

@[simp] theorem exchangeByte_i2cState (b : Byte) (s : State) : (exchangeByte b s).i2cState = s.i2cState := rfl
@[simp] theorem exchangeByte_i2cTarget (b : Byte) (s : State) : (exchangeByte b s).i2cTarget = s.i2cTarget := rfl
@[simp] theorem exchangeByte_i2cReg (b : Byte) (s : State) : (exchangeByte b s).i2cReg = s.i2cReg := rfl
@[simp] theorem exchangeByte_i2cLastByte (b : Byte) (s : State) :
    (exchangeByte b s).i2cLastByte = s.i2cLastByte := rfl
@[simp] theorem exchangeByte_i2cDone (b : Byte) (s : State) : (exchangeByte b s).i2cDone = s.i2cDone := rfl
@[simp] theorem exchangeByte_i2cNackEnd (b : Byte) (s : State) : (exchangeByte b s).i2cNackEnd = s.i2cNackEnd := rfl
@[simp] theorem exchangeByte_i2cLog (b : Byte) (s : State) : (exchangeByte b s).i2cLog = s.i2cLog := rfl
@[simp] theorem exchangeByte_csSel (b : Byte) (s : State) : (exchangeByte b s).csSel = s.csSel := rfl
@[simp] theorem exchangeByte_spiBusy (b : Byte) (s : State) : (exchangeByte b s).spiBusy = s.spiBusy := rfl
@[simp] theorem exchangeByte_spiSeq (b : Byte) (s : State) : (exchangeByte b s).spiSeq = s.spiSeq := rfl
@[simp] theorem exchangeByte_spiRx (b : Byte) (s : State) : (exchangeByte b s).spiRx = some (exchangeReply s) := rfl
@[simp] theorem exchangeByte_spiLog (b : Byte) (s : State) :
    (exchangeByte b s).spiLog = s.spiLog ++ [.xfer b (exchangeReply s)] := rfl
@[simp] theorem exchangeByte_devConfigured (b : Byte) (s : State) :
    (exchangeByte b s).devConfigured = s.devConfigured := rfl
@[simp] theorem exchangeByte_chDivisor (b : Byte) (s : State) : (exchangeByte b s).chDivisor = s.chDivisor := rfl
@[simp] theorem exchangeByte_faults (b : Byte) (s : State) : (exchangeByte b s).faults = s.faults := rfl
@[simp] theorem exchangeByte_halted (b : Byte) (s : State) : (exchangeByte b s).halted = s.halted := rfl
@[simp] theorem exchangeByte_bridgeStore (b : Byte) (s : State) :
    (exchangeByte b s).bridgeStore = exchangeStore b s := rfl
@[simp] theorem exchangeByte_events (b : Byte) (s : State) : (exchangeByte b s).events = s.events := rfl
@[simp] theorem exchangeByte_hostOp (b : Byte) (s : State) : (exchangeByte b s).hostOp = s.hostOp := rfl
@[simp] theorem exchangeByte_spiFrame (b : Byte) (s : State) :
    (exchangeByte b s).spiFrame = exchangePhase b s.spiFrame := rfl
@[simp] theorem exchangeByte_hostWords (b : Byte) (s : State) : (exchangeByte b s).hostWords = s.hostWords := rfl
@[simp] theorem exchangeByte_results (b : Byte) (s : State) : (exchangeByte b s).results = s.results := rfl
@[simp] theorem exchangeByte_agenda (b : Byte) (s : State) : (exchangeByte b s).agenda = s.agenda := rfl
@[simp] theorem exchangeByte_draws (b : Byte) (s : State) : (exchangeByte b s).draws = s.draws + 1 := rfl
@[simp] theorem exchangeByte_options (b : Byte) (s : State) : (exchangeByte b s).options = s.options := rfl

/-! ### deselectLine -/

@[simp] theorem deselectLine_i2cState (d : Device) (s : State) : (deselectLine d s).i2cState = s.i2cState := rfl
@[simp] theorem deselectLine_i2cTarget (d : Device) (s : State) : (deselectLine d s).i2cTarget = s.i2cTarget := rfl
@[simp] theorem deselectLine_i2cReg (d : Device) (s : State) : (deselectLine d s).i2cReg = s.i2cReg := rfl
@[simp] theorem deselectLine_i2cLastByte (d : Device) (s : State) :
    (deselectLine d s).i2cLastByte = s.i2cLastByte := rfl
@[simp] theorem deselectLine_i2cDone (d : Device) (s : State) : (deselectLine d s).i2cDone = s.i2cDone := rfl
@[simp] theorem deselectLine_i2cNackEnd (d : Device) (s : State) : (deselectLine d s).i2cNackEnd = s.i2cNackEnd := rfl
@[simp] theorem deselectLine_i2cLog (d : Device) (s : State) : (deselectLine d s).i2cLog = s.i2cLog := rfl
@[simp] theorem deselectLine_csSel (d : Device) (s : State) : (deselectLine d s).csSel = s.csSel.set d false := rfl
@[simp] theorem deselectLine_spiBusy (d : Device) (s : State) : (deselectLine d s).spiBusy = s.spiBusy := rfl
@[simp] theorem deselectLine_spiSeq (d : Device) (s : State) : (deselectLine d s).spiSeq = s.spiSeq := rfl
@[simp] theorem deselectLine_spiRx (d : Device) (s : State) : (deselectLine d s).spiRx = s.spiRx := rfl
@[simp] theorem deselectLine_spiLog (d : Device) (s : State) :
    (deselectLine d s).spiLog = s.spiLog ++ [.deselect d] := rfl
@[simp] theorem deselectLine_devConfigured (d : Device) (s : State) :
    (deselectLine d s).devConfigured = s.devConfigured := rfl
@[simp] theorem deselectLine_chDivisor (d : Device) (s : State) : (deselectLine d s).chDivisor = s.chDivisor := rfl
@[simp] theorem deselectLine_faults (d : Device) (s : State) : (deselectLine d s).faults = s.faults := rfl
@[simp] theorem deselectLine_halted (d : Device) (s : State) : (deselectLine d s).halted = s.halted := rfl
@[simp] theorem deselectLine_bridgeStore (d : Device) (s : State) :
    (deselectLine d s).bridgeStore = s.bridgeStore := rfl
@[simp] theorem deselectLine_events (d : Device) (s : State) : (deselectLine d s).events = s.events := rfl
@[simp] theorem deselectLine_hostOp (d : Device) (s : State) : (deselectLine d s).hostOp = s.hostOp := rfl
@[simp] theorem deselectLine_spiFrame (d : Device) (s : State) :
    (deselectLine d s).spiFrame = if (linesSelected (s.csSel.set d false)).isEmpty then .closed else s.spiFrame := rfl
@[simp] theorem deselectLine_hostWords (d : Device) (s : State) : (deselectLine d s).hostWords = s.hostWords := rfl
@[simp] theorem deselectLine_results (d : Device) (s : State) : (deselectLine d s).results = s.results := rfl
@[simp] theorem deselectLine_agenda (d : Device) (s : State) : (deselectLine d s).agenda = s.agenda := rfl
@[simp] theorem deselectLine_draws (d : Device) (s : State) : (deselectLine d s).draws = s.draws := rfl
@[simp] theorem deselectLine_options (d : Device) (s : State) : (deselectLine d s).options = s.options := rfl

/-! ### endProcedure -/

@[simp] theorem endProcedure_i2cState (r : HostResult) (s : State) : (endProcedure r s).i2cState = s.i2cState := rfl
@[simp] theorem endProcedure_i2cTarget (r : HostResult) (s : State) :
    (endProcedure r s).i2cTarget = s.i2cTarget := rfl
@[simp] theorem endProcedure_i2cReg (r : HostResult) (s : State) : (endProcedure r s).i2cReg = s.i2cReg := rfl
@[simp] theorem endProcedure_i2cLastByte (r : HostResult) (s : State) :
    (endProcedure r s).i2cLastByte = s.i2cLastByte := rfl
@[simp] theorem endProcedure_i2cDone (r : HostResult) (s : State) : (endProcedure r s).i2cDone = s.i2cDone := rfl
@[simp] theorem endProcedure_i2cNackEnd (r : HostResult) (s : State) :
    (endProcedure r s).i2cNackEnd = s.i2cNackEnd := rfl
@[simp] theorem endProcedure_i2cLog (r : HostResult) (s : State) : (endProcedure r s).i2cLog = s.i2cLog := rfl
@[simp] theorem endProcedure_csSel (r : HostResult) (s : State) : (endProcedure r s).csSel = s.csSel := rfl
@[simp] theorem endProcedure_spiBusy (r : HostResult) (s : State) : (endProcedure r s).spiBusy = false := rfl
@[simp] theorem endProcedure_spiSeq (r : HostResult) (s : State) : (endProcedure r s).spiSeq = s.spiSeq := rfl
@[simp] theorem endProcedure_spiRx (r : HostResult) (s : State) : (endProcedure r s).spiRx = s.spiRx := rfl
@[simp] theorem endProcedure_spiLog (r : HostResult) (s : State) : (endProcedure r s).spiLog = s.spiLog := rfl
@[simp] theorem endProcedure_devConfigured (r : HostResult) (s : State) :
    (endProcedure r s).devConfigured = s.devConfigured := rfl
@[simp] theorem endProcedure_chDivisor (r : HostResult) (s : State) :
    (endProcedure r s).chDivisor = s.chDivisor := rfl
@[simp] theorem endProcedure_faults (r : HostResult) (s : State) : (endProcedure r s).faults = s.faults := rfl
@[simp] theorem endProcedure_halted (r : HostResult) (s : State) : (endProcedure r s).halted = s.halted := rfl
@[simp] theorem endProcedure_bridgeStore (r : HostResult) (s : State) :
    (endProcedure r s).bridgeStore = s.bridgeStore := rfl
@[simp] theorem endProcedure_events (r : HostResult) (s : State) : (endProcedure r s).events = s.events := rfl
@[simp] theorem endProcedure_hostOp (r : HostResult) (s : State) : (endProcedure r s).hostOp = [] := rfl
@[simp] theorem endProcedure_spiFrame (r : HostResult) (s : State) : (endProcedure r s).spiFrame = s.spiFrame := rfl
@[simp] theorem endProcedure_hostWords (r : HostResult) (s : State) :
    (endProcedure r s).hostWords = s.hostWords := rfl
@[simp] theorem endProcedure_results (r : HostResult) (s : State) :
    (endProcedure r s).results = s.results ++ [r] := rfl
@[simp] theorem endProcedure_agenda (r : HostResult) (s : State) : (endProcedure r s).agenda = s.agenda := rfl
@[simp] theorem endProcedure_draws (r : HostResult) (s : State) : (endProcedure r s).draws = s.draws := rfl
@[simp] theorem endProcedure_options (r : HostResult) (s : State) : (endProcedure r s).options = s.options := rfl

/-! ### completeTransaction -/

@[simp] theorem completeTransaction_i2cState (s : State) : (completeTransaction s).i2cState = .idle := rfl
@[simp] theorem completeTransaction_i2cTarget (s : State) : (completeTransaction s).i2cTarget = s.i2cTarget := rfl
@[simp] theorem completeTransaction_i2cReg (s : State) : (completeTransaction s).i2cReg = s.i2cReg := rfl
@[simp] theorem completeTransaction_i2cLastByte (s : State) :
    (completeTransaction s).i2cLastByte = s.i2cLastByte := rfl
@[simp] theorem completeTransaction_i2cDone (s : State) : (completeTransaction s).i2cDone = true := rfl
@[simp] theorem completeTransaction_i2cNackEnd (s : State) : (completeTransaction s).i2cNackEnd = false := rfl
@[simp] theorem completeTransaction_i2cLog (s : State) : (completeTransaction s).i2cLog = s.i2cLog := rfl
@[simp] theorem completeTransaction_csSel (s : State) : (completeTransaction s).csSel = s.csSel := rfl
@[simp] theorem completeTransaction_spiBusy (s : State) : (completeTransaction s).spiBusy = s.spiBusy := rfl
@[simp] theorem completeTransaction_spiSeq (s : State) : (completeTransaction s).spiSeq = s.spiSeq := rfl
@[simp] theorem completeTransaction_spiRx (s : State) : (completeTransaction s).spiRx = s.spiRx := rfl
@[simp] theorem completeTransaction_spiLog (s : State) : (completeTransaction s).spiLog = s.spiLog := rfl
@[simp] theorem completeTransaction_devConfigured (s : State) :
    (completeTransaction s).devConfigured = s.devConfigured := rfl
@[simp] theorem completeTransaction_chDivisor (s : State) : (completeTransaction s).chDivisor = s.chDivisor := rfl
@[simp] theorem completeTransaction_faults (s : State) : (completeTransaction s).faults = s.faults := rfl
@[simp] theorem completeTransaction_halted (s : State) : (completeTransaction s).halted = s.halted := rfl
@[simp] theorem completeTransaction_bridgeStore (s : State) :
    (completeTransaction s).bridgeStore = s.bridgeStore := rfl
@[simp] theorem completeTransaction_events (s : State) : (completeTransaction s).events = s.events := rfl
@[simp] theorem completeTransaction_hostOp (s : State) : (completeTransaction s).hostOp = s.hostOp := rfl
@[simp] theorem completeTransaction_spiFrame (s : State) : (completeTransaction s).spiFrame = s.spiFrame := rfl
@[simp] theorem completeTransaction_hostWords (s : State) : (completeTransaction s).hostWords = s.hostWords := rfl
@[simp] theorem completeTransaction_results (s : State) : (completeTransaction s).results = s.results := rfl
@[simp] theorem completeTransaction_agenda (s : State) : (completeTransaction s).agenda = s.agenda := rfl
@[simp] theorem completeTransaction_draws (s : State) : (completeTransaction s).draws = s.draws := rfl
@[simp] theorem completeTransaction_options (s : State) : (completeTransaction s).options = s.options := rfl

/-! ### writeRegisterAddress -/

@[simp] theorem writeRegisterAddress_i2cState (s : State) : (writeRegisterAddress s).i2cState = .sendReg := rfl
@[simp] theorem writeRegisterAddress_i2cTarget (s : State) : (writeRegisterAddress s).i2cTarget = s.i2cTarget := rfl
@[simp] theorem writeRegisterAddress_i2cReg (s : State) : (writeRegisterAddress s).i2cReg = s.i2cReg := rfl
@[simp] theorem writeRegisterAddress_i2cLastByte (s : State) :
    (writeRegisterAddress s).i2cLastByte = s.i2cLastByte := rfl
@[simp] theorem writeRegisterAddress_i2cDone (s : State) : (writeRegisterAddress s).i2cDone = s.i2cDone := rfl
@[simp] theorem writeRegisterAddress_i2cNackEnd (s : State) :
    (writeRegisterAddress s).i2cNackEnd = s.i2cNackEnd := rfl
@[simp] theorem writeRegisterAddress_i2cLog (s : State) :
    (writeRegisterAddress s).i2cLog = s.i2cLog ++ [.write (regOrFree s)] := rfl
@[simp] theorem writeRegisterAddress_csSel (s : State) : (writeRegisterAddress s).csSel = s.csSel := rfl
@[simp] theorem writeRegisterAddress_spiBusy (s : State) : (writeRegisterAddress s).spiBusy = s.spiBusy := rfl
@[simp] theorem writeRegisterAddress_spiSeq (s : State) : (writeRegisterAddress s).spiSeq = s.spiSeq := rfl
@[simp] theorem writeRegisterAddress_spiRx (s : State) : (writeRegisterAddress s).spiRx = s.spiRx := rfl
@[simp] theorem writeRegisterAddress_spiLog (s : State) : (writeRegisterAddress s).spiLog = s.spiLog := rfl
@[simp] theorem writeRegisterAddress_devConfigured (s : State) :
    (writeRegisterAddress s).devConfigured = s.devConfigured := rfl
@[simp] theorem writeRegisterAddress_chDivisor (s : State) : (writeRegisterAddress s).chDivisor = s.chDivisor := rfl
@[simp] theorem writeRegisterAddress_faults (s : State) : (writeRegisterAddress s).faults = s.faults := rfl
@[simp] theorem writeRegisterAddress_halted (s : State) : (writeRegisterAddress s).halted = s.halted := rfl
@[simp] theorem writeRegisterAddress_bridgeStore (s : State) :
    (writeRegisterAddress s).bridgeStore = s.bridgeStore := rfl
@[simp] theorem writeRegisterAddress_events (s : State) : (writeRegisterAddress s).events = s.events := rfl
@[simp] theorem writeRegisterAddress_hostOp (s : State) : (writeRegisterAddress s).hostOp = s.hostOp := rfl
@[simp] theorem writeRegisterAddress_spiFrame (s : State) : (writeRegisterAddress s).spiFrame = s.spiFrame := rfl
@[simp] theorem writeRegisterAddress_hostWords (s : State) : (writeRegisterAddress s).hostWords = s.hostWords := rfl
@[simp] theorem writeRegisterAddress_results (s : State) : (writeRegisterAddress s).results = s.results := rfl
@[simp] theorem writeRegisterAddress_agenda (s : State) : (writeRegisterAddress s).agenda = s.agenda := rfl
@[simp] theorem writeRegisterAddress_draws (s : State) : (writeRegisterAddress s).draws = s.draws := rfl
@[simp] theorem writeRegisterAddress_options (s : State) : (writeRegisterAddress s).options = s.options := rfl

/-! ### repeatStart -/

@[simp] theorem repeatStart_i2cState (s : State) : (repeatStart s).i2cState = .read := rfl
@[simp] theorem repeatStart_i2cTarget (s : State) : (repeatStart s).i2cTarget = s.i2cTarget := rfl
@[simp] theorem repeatStart_i2cReg (s : State) : (repeatStart s).i2cReg = s.i2cReg := rfl
@[simp] theorem repeatStart_i2cLastByte (s : State) : (repeatStart s).i2cLastByte = s.i2cLastByte := rfl
@[simp] theorem repeatStart_i2cDone (s : State) : (repeatStart s).i2cDone = s.i2cDone := rfl
@[simp] theorem repeatStart_i2cNackEnd (s : State) : (repeatStart s).i2cNackEnd = s.i2cNackEnd := rfl
@[simp] theorem repeatStart_i2cLog (s : State) :
    (repeatStart s).i2cLog = s.i2cLog ++ [.rstartR (addrByte (targetOrFree s) 1#1)] := rfl
@[simp] theorem repeatStart_csSel (s : State) : (repeatStart s).csSel = s.csSel := rfl
@[simp] theorem repeatStart_spiBusy (s : State) : (repeatStart s).spiBusy = s.spiBusy := rfl
@[simp] theorem repeatStart_spiSeq (s : State) : (repeatStart s).spiSeq = s.spiSeq := rfl
@[simp] theorem repeatStart_spiRx (s : State) : (repeatStart s).spiRx = s.spiRx := rfl
@[simp] theorem repeatStart_spiLog (s : State) : (repeatStart s).spiLog = s.spiLog := rfl
@[simp] theorem repeatStart_devConfigured (s : State) : (repeatStart s).devConfigured = s.devConfigured := rfl
@[simp] theorem repeatStart_chDivisor (s : State) : (repeatStart s).chDivisor = s.chDivisor := rfl
@[simp] theorem repeatStart_faults (s : State) : (repeatStart s).faults = s.faults := rfl
@[simp] theorem repeatStart_halted (s : State) : (repeatStart s).halted = s.halted := rfl
@[simp] theorem repeatStart_bridgeStore (s : State) : (repeatStart s).bridgeStore = s.bridgeStore := rfl
@[simp] theorem repeatStart_events (s : State) : (repeatStart s).events = s.events := rfl
@[simp] theorem repeatStart_hostOp (s : State) : (repeatStart s).hostOp = s.hostOp := rfl
@[simp] theorem repeatStart_spiFrame (s : State) : (repeatStart s).spiFrame = s.spiFrame := rfl
@[simp] theorem repeatStart_hostWords (s : State) : (repeatStart s).hostWords = s.hostWords := rfl
@[simp] theorem repeatStart_results (s : State) : (repeatStart s).results = s.results := rfl
@[simp] theorem repeatStart_agenda (s : State) : (repeatStart s).agenda = s.agenda := rfl
@[simp] theorem repeatStart_draws (s : State) : (repeatStart s).draws = s.draws := rfl
@[simp] theorem repeatStart_options (s : State) : (repeatStart s).options = s.options := rfl

/-! ### captureByte -/

@[simp] theorem captureByte_i2cState (b : Byte) (s : State) : (captureByte b s).i2cState = .waitStop := rfl
@[simp] theorem captureByte_i2cTarget (b : Byte) (s : State) : (captureByte b s).i2cTarget = s.i2cTarget := rfl
@[simp] theorem captureByte_i2cReg (b : Byte) (s : State) : (captureByte b s).i2cReg = s.i2cReg := rfl
@[simp] theorem captureByte_i2cLastByte (b : Byte) (s : State) : (captureByte b s).i2cLastByte = some b := rfl
@[simp] theorem captureByte_i2cDone (b : Byte) (s : State) : (captureByte b s).i2cDone = s.i2cDone := rfl
@[simp] theorem captureByte_i2cNackEnd (b : Byte) (s : State) : (captureByte b s).i2cNackEnd = s.i2cNackEnd := rfl
@[simp] theorem captureByte_i2cLog (b : Byte) (s : State) : (captureByte b s).i2cLog = s.i2cLog ++ [.nackStop] := rfl
@[simp] theorem captureByte_csSel (b : Byte) (s : State) : (captureByte b s).csSel = s.csSel := rfl
@[simp] theorem captureByte_spiBusy (b : Byte) (s : State) : (captureByte b s).spiBusy = s.spiBusy := rfl
@[simp] theorem captureByte_spiSeq (b : Byte) (s : State) : (captureByte b s).spiSeq = s.spiSeq := rfl
@[simp] theorem captureByte_spiRx (b : Byte) (s : State) : (captureByte b s).spiRx = s.spiRx := rfl
@[simp] theorem captureByte_spiLog (b : Byte) (s : State) : (captureByte b s).spiLog = s.spiLog := rfl
@[simp] theorem captureByte_devConfigured (b : Byte) (s : State) :
    (captureByte b s).devConfigured = s.devConfigured := rfl
@[simp] theorem captureByte_chDivisor (b : Byte) (s : State) : (captureByte b s).chDivisor = s.chDivisor := rfl
@[simp] theorem captureByte_faults (b : Byte) (s : State) : (captureByte b s).faults = s.faults := rfl
@[simp] theorem captureByte_halted (b : Byte) (s : State) : (captureByte b s).halted = s.halted := rfl
@[simp] theorem captureByte_bridgeStore (b : Byte) (s : State) : (captureByte b s).bridgeStore = s.bridgeStore := rfl
@[simp] theorem captureByte_events (b : Byte) (s : State) : (captureByte b s).events = s.events := rfl
@[simp] theorem captureByte_hostOp (b : Byte) (s : State) : (captureByte b s).hostOp = s.hostOp := rfl
@[simp] theorem captureByte_spiFrame (b : Byte) (s : State) : (captureByte b s).spiFrame = s.spiFrame := rfl
@[simp] theorem captureByte_hostWords (b : Byte) (s : State) : (captureByte b s).hostWords = s.hostWords := rfl
@[simp] theorem captureByte_results (b : Byte) (s : State) : (captureByte b s).results = s.results := rfl
@[simp] theorem captureByte_agenda (b : Byte) (s : State) : (captureByte b s).agenda = s.agenda := rfl
@[simp] theorem captureByte_draws (b : Byte) (s : State) : (captureByte b s).draws = s.draws := rfl
@[simp] theorem captureByte_options (b : Byte) (s : State) : (captureByte b s).options = s.options := rfl

end Sys2Proof.Machine
end

