-- ==== Sys2Proof/Laws/Ops.lean ====
section
/-! SUPPORT. One lemma per shared operation: everything it can do, said once, to be cited instead of unfolding it. -/

namespace Sys2Proof.Machine

/-! ### Indexed state (R13) -/

@[simp] theorem i2cState_ofBits_bits (st : I2cState) : I2cState.ofBits st.bits = some st := by cases st <;> rfl

/-- A pair `(code, info)` is a record's exactly where it is that record's code and information (R290). -/
theorem faultRecord_ofEntry_eq_some (c : Byte) (i : FaultInfo) (r : FaultRecord) :
    FaultRecord.ofEntry c i = some r ↔ r.code = c ∧ r.info = i := by
  constructor
  · intro h
    cases i <;> simp only [FaultRecord.ofEntry] at h <;> split_ifs at h <;> cases h <;>
      exact ⟨Eq.symm ‹_›, rfl⟩
  · rintro ⟨rfl, rfl⟩
    cases r <;> rfl

/-- Two faults with one code and one information are one record (R290). -/
theorem faultRecord_ext (f g : FaultRecord) (hc : f.code = g.code) (hi : f.info = g.info) : f = g :=
  Option.some.inj <| ((faultRecord_ofEntry_eq_some _ _ f).2 ⟨hc, hi⟩).symm.trans
    ((faultRecord_ofEntry_eq_some _ _ g).2 ⟨rfl, rfl⟩)

/-- The codes in use are 0x01 to 0x07 (R290). -/
theorem faultRecord_code_range (f : FaultRecord) : 1 ≤ f.code.toNat ∧ f.code.toNat ≤ 7 := by cases f <;> simp [FaultRecord.code]

/-- The codes 5, 6 and 7 are no state's (R32). -/
theorem i2cState_ofBits_none (b : BitVec 3) : I2cState.ofBits b = none ↔ 5 ≤ b.toNat := by revert b; decide

@[simp] theorem perDevice_get_set {α : Type} (x : PerDevice α) (d : Device) (v : α) : (x.set d v).get d = v := by
  cases d <;> rfl

theorem perDevice_get_set_other {α : Type} (x : PerDevice α) (d e : Device) (v : α) (h : e ≠ d) :
    (x.set d v).get e = x.get e := by
  cases d <;> cases e <;> first | rfl | exact absurd rfl h

@[simp] theorem perChannel_get_set {α : Type} (x : PerChannel α) (c : Chan) (v : α) : (x.set c v).get c = v := by
  unfold PerChannel.get PerChannel.set
  split_ifs <;> rfl

theorem perChannel_get_set_other {α : Type} (x : PerChannel α) (c e : Chan) (v : α) (h : e ≠ c) :
    (x.set c v).get e = x.get e := by
  unfold PerChannel.get PerChannel.set
  have h4 : ∀ b : Chan, b = 0#2 ∨ b = 1#2 ∨ b = 2#2 ∨ b = 3#2 := by decide
  rcases h4 c with rfl | rfl | rfl | rfl <;> rcases h4 e with rfl | rfl | rfl | rfl <;>
    first | exact absurd rfl h | simp

/-! ### Chip-select lines (R211 to R214) -/

/-- With no line selected, selecting `d` selects `d` alone. -/
theorem linesSelected_set_true (cs : PerDevice Bool) (d : Device) (h : linesSelected cs = []) :
    linesSelected (cs.set d true) = [d] := by
  obtain ⟨a, b, c⟩ := cs
  cases a <;> cases b <;> cases c <;> cases d <;> first | rfl | exact absurd h (by decide)

/-- With `d` alone selected, deselecting `d` leaves nothing selected. -/
theorem linesSelected_set_false (cs : PerDevice Bool) (d : Device) (h : linesSelected cs = [d]) :
    linesSelected (cs.set d false) = [] := by
  obtain ⟨a, b, c⟩ := cs
  cases a <;> cases b <;> cases c <;> cases d <;> first | rfl | exact absurd h (by decide)

/-- Deselecting never adds to the selected set. -/
theorem linesSelected_deselect_length (cs : PerDevice Bool) (d : Device) :
    (linesSelected (cs.set d false)).length ≤ (linesSelected cs).length := by
  obtain ⟨a, b, c⟩ := cs
  cases a <;> cases b <;> cases c <;> cases d <;> decide

/-- The selected set is a function of the lines alone. -/
theorem selectedSet_congr (s t : State) (h : t.csSel = s.csSel) : selectedSet t = selectedSet s := by
  simp [selectedSet, h]

/-- A select with nothing selected drives its line and opens a frame (R211). -/
theorem selectLine_free (d : Device) (s : State) (h : selectedSet s = []) :
    selectLine d s =
      { s with csSel := s.csSel.set d true, spiLog := s.spiLog ++ [.select d], spiFrame := .opened } := by
  simp [selectLine, h]

/-- A select with a line selected raises CS_CONFLICT (R211). -/
theorem selectLine_conflict (d : Device) (s : State) (h : selectedSet s ≠ []) :
    selectLine d s = raiseFault (.csConflict d (selectedSet s)) s := by
  simp [selectLine, h]

/-! ### The byte exchange (R180, R189) -/

/-- Outside a frame's second exchange the byte received is drawn. -/
theorem exchangeReply_of_no_cell (s : State) (h : frameCell s = none) : exchangeReply s = Config.freeByte s.draws := by
  unfold exchangeReply
  rw [h]
  cases s.options.bridgeModel <;> rfl

/-- Outside a frame's second exchange the store is left alone. -/
theorem exchangeStore_of_no_cell (b : Byte) (s : State) (h : frameCell s = none) :
    exchangeStore b s = s.bridgeStore := by
  unfold exchangeStore
  rw [h]
  cases s.options.bridgeModel <;> rfl

/-- Under Unconstrained every byte received is drawn (R52). -/
theorem exchangeReply_unconstrained (s : State) (h : s.options.bridgeModel = .unconstrained) :
    exchangeReply s = Config.freeByte s.draws := by
  simp [exchangeReply, h]

/-- Under Unconstrained no exchange changes the store (R189). -/
theorem exchangeStore_unconstrained (b : Byte) (s : State) (h : s.options.bridgeModel = .unconstrained) :
    exchangeStore b s = s.bridgeStore := by
  simp [exchangeStore, h]

/-- The cell of a frame whose command byte has been exchanged. -/
theorem frameCell_commanded (s : State) (d : Device) (dir : Dir) (c : Chan) (r : Reg)
    (hp : s.spiFrame = .commanded dir c r) (hs : selectedSet s = [d]) :
    frameCell s = some (dir, cellAddr d c r) := by
  simp [frameCell, hp, hs]

/-! ### Faults (R300) -/

/-- A fault in a state without faults leaves exactly its record. -/
theorem raiseFault_fresh (f : FaultRecord) (s : State) (h : s.faults = []) :
    raiseFault f s = { s with faults := [f], halted := true } := by
  simp [raiseFault, h]

/-- The record is there afterwards. -/
theorem mem_raiseFault (f : FaultRecord) (s : State) : f ∈ (raiseFault f s).faults := by
  simp only [raiseFault_faults]
  split <;> simp [*]

/-! ### The checks (R260, R303) -/

/-- A bridge operation that passes its checks runs its body. -/
theorem checkBridge_pass (w : Word) (dev : Device) (s : State) (body : Device → State) (hb : s.spiBusy = false) :
    checkBridge w dev.bits s body = body dev := by
  simp [checkBridge, hb]

/-- Everything the checks of a bridge operation can do. -/
theorem checkBridge_cases (w : Word) (d : BitVec 2) (s : State) (body : Device → State) :
    (s.spiBusy = true ∧ checkBridge w d s body = raiseFault (.spiReentry w) s) ∨
    (s.spiBusy = false ∧ Device.ofBits d = none ∧ checkBridge w d s body = raiseFault (.invalidDevice w) s) ∨
    (∃ dev, s.spiBusy = false ∧ Device.ofBits d = some dev ∧ checkBridge w d s body = body dev) := by
  cases hb : s.spiBusy <;> cases hd : Device.ofBits d <;> simp [checkBridge, hb, hd]

/-- Everything the checks of a port operation can do. -/
theorem checkPort_cases (w : Word) (d : BitVec 2) (s : State) (body : Device → State) :
    (s.spiBusy = true ∧ checkPort w d s body = raiseFault (.spiReentry w) s) ∨
    (s.spiBusy = false ∧ Device.ofBits d = none ∧ checkPort w d s body = raiseFault (.invalidDevice w) s) ∨
    (∃ dev, s.spiBusy = false ∧ Device.ofBits d = some dev ∧ s.devConfigured.get dev = false ∧
      checkPort w d s body = raiseFault (.channelNotConfigured w) s) ∨
    (∃ dev, s.spiBusy = false ∧ Device.ofBits d = some dev ∧ s.devConfigured.get dev = true ∧
      checkPort w d s body = body dev) := by
  cases hb : s.spiBusy <;> cases hd : Device.ofBits d with
  | none => simp [checkPort, checkBridge, hb, hd]
  | some dev => cases hc : s.devConfigured.get dev <;> simp [checkPort, checkBridge, hb, hd, hc]

/-! ### The host's procedure (R181) -/

/-- Everything one call or decision can do. -/
theorem runCalls_cases (calls : List HostCall) (s : State) :
    (calls = [] ∧ runCalls calls s = s) ∨
    (∃ words rest, runCalls calls s = { s with spiSeq := words, hostOp := rest } ∧
      ((∃ d b1 b2, words = frameWords d b1 b2) ∨ ∃ id, words = [delayWord id])) ∨
    (∃ x rest, runCalls calls s = { s with chDivisor := x, hostOp := rest }) ∨
    (∃ x rest, runCalls calls s = { s with devConfigured := x, hostOp := rest }) ∨
    (∃ rest, runCalls calls s = { s with hostOp := rest }) ∨
    (∃ r, runCalls calls s = endProcedure r s) := by
  cases calls with
  | nil => exact .inl ⟨rfl, rfl⟩
  | cons c rest =>
    right
    cases c with
    | frameWrite d c r v => exact .inl ⟨_, _, rfl, .inl ⟨_, _, _, rfl⟩⟩
    | frameRead d c r => exact .inl ⟨_, _, rfl, .inl ⟨_, _, _, rfl⟩⟩
    | delay id => exact .inl ⟨_, _, rfl, .inr ⟨_, rfl⟩⟩
    | recordDivisor d c div => exact .inr (.inl ⟨_, _, rfl⟩)
    | markConfigured d => exact .inr (.inr (.inl ⟨_, _, rfl⟩))
    | testLevel =>
      simp only [runCalls]
      split
      · exact .inr (.inr (.inr (.inr ⟨_, rfl⟩)))
      · exact .inr (.inr (.inr (.inl ⟨_, rfl⟩)))
    | finish k => exact .inr (.inr (.inr (.inr ⟨_, rfl⟩)))

end Sys2Proof.Machine
end

