-- ==== Sys2Proof/Laws/PerInstr.lean ====
section
/-! SUPPORT. Every instruction's word carries the fixed bits of its row of spec/opcode_table.json, whatever its operands
(one lemma per constructor). -/

namespace Sys2Proof.Laws.EncodingRow

/-- The mask and the match value of each row, as the table prints them. -/
def tableRow : Instr → Nat × Nat
  | .i2cStart _ _ => (0xFF8000FF, 0x10000000)
  | .i2cIsdone => (0xFFFFFFFF, 0x20000000)
  | .i2cGetbyte => (0xFFFFFFFF, 0x30000000)
  | .spiWrite _ _ _ _ => (0xF0E0FF00, 0x40000000)
  | .spiRead _ _ _ => (0xF0E0FFFF, 0x50000000)
  | .uartInit _ _ => (0xF3000000, 0x60000000)
  | .uartSendchar _ _ _ => (0xF0FFFF00, 0x70000000)
  | .uartRecvchar _ _ => (0xF0FFFFFF, 0x80000000)
  | .uartAvail _ _ => (0xF0FFFFFF, 0x90000000)
  | .uartGeterr _ _ => (0xF0FFFFFF, 0xA0000000)
  | .uartClrerr _ _ => (0xF0FFFFFF, 0xB0000000)
  | .baudLookup _ => (0xFF000000, 0xC0000000)
  | .spiFrameWrite _ _ => (0x80, 0x80)
  | .spiFrameRead _ _ => (0x80, 0x00)
  | .i2cAddrW _ => (0x01, 0x00)
  | .i2cAddrR _ => (0x01, 0x01)
  | .bcStartW _ => (0xFF01, 0x1000)
  | .bcWrite _ => (0xFF00, 0x2000)
  | .bcRstartR _ => (0xFF01, 0x3001)
  | .bcNackStop => (0xFFFF, 0x4000)
  | .bcStop => (0xFFFF, 0x5000)
  | .evAck => (0xFFFF, 0x0000)
  | .evNack => (0xFFFF, 0x0001)
  | .evTxe => (0xFFFF, 0x0002)
  | .evRxv _ => (0x00FF, 0x0003)
  | .evStopd => (0xFFFF, 0x0004)
  | .uSelect _ => (0xFCFF, 0x1000)
  | .uDeselect _ => (0xFCFF, 0x2000)
  | .uDelay _ => (0xFFFC, 0x3000)
  | .uXfer _ => (0xFF00, 0x4000)

/-- The encoded word has the row's fixed bits. -/
def Statement (i : Instr) : Prop :=
  match encode i with
  | .host w => w &&& BitVec.ofNat 32 (tableRow i).1 = BitVec.ofNat 32 (tableRow i).2
  | .command b => b &&& BitVec.ofNat 8 (tableRow i).1 = BitVec.ofNat 8 (tableRow i).2
  | .address b => b &&& BitVec.ofNat 8 (tableRow i).1 = BitVec.ofNat 8 (tableRow i).2
  | .bus w => w &&& BitVec.ofNat 16 (tableRow i).1 = BitVec.ofNat 16 (tableRow i).2
  | .event w => w &&& BitVec.ofNat 16 (tableRow i).1 = BitVec.ofNat 16 (tableRow i).2
  | .micro w => w &&& BitVec.ofNat 16 (tableRow i).1 = BitVec.ofNat 16 (tableRow i).2

theorem i2cStart (t : Target) (r : Byte) : Statement (.i2cStart t r) := by
  simp only [Statement, encode, tableRow, formatI, place]
  ext i hi
  interval_cases i <;> simp

theorem i2cIsdone : Statement (.i2cIsdone) := rfl

theorem i2cGetbyte : Statement (.i2cGetbyte) := rfl

theorem spiWrite (d : BitVec 2) (c : Chan) (r : Reg) (v : Byte) : Statement (.spiWrite d c r v) := by
  simp only [Statement, encode, tableRow, formatS, place]
  ext i hi
  interval_cases i <;> simp

theorem spiRead (d : BitVec 2) (c : Chan) (r : Reg) : Statement (.spiRead d c r) := by
  simp only [Statement, encode, tableRow, formatS, place]
  ext i hi
  interval_cases i <;> simp

theorem uartInit (d : BitVec 2) (rate : Rate) : Statement (.uartInit d rate) := by
  simp only [Statement, encode, tableRow, formatB, place]
  ext i hi
  interval_cases i <;> simp

theorem uartSendchar (d : BitVec 2) (c : Chan) (b : Byte) : Statement (.uartSendchar d c b) := by
  simp only [Statement, encode, tableRow, formatS, place]
  ext i hi
  interval_cases i <;> simp

theorem uartRecvchar (d : BitVec 2) (c : Chan) : Statement (.uartRecvchar d c) := by
  simp only [Statement, encode, tableRow, formatS, place]
  ext i hi
  interval_cases i <;> simp

theorem uartAvail (d : BitVec 2) (c : Chan) : Statement (.uartAvail d c) := by
  simp only [Statement, encode, tableRow, formatS, place]
  ext i hi
  interval_cases i <;> simp

theorem uartGeterr (d : BitVec 2) (c : Chan) : Statement (.uartGeterr d c) := by
  simp only [Statement, encode, tableRow, formatS, place]
  ext i hi
  interval_cases i <;> simp

theorem uartClrerr (d : BitVec 2) (c : Chan) : Statement (.uartClrerr d c) := by
  simp only [Statement, encode, tableRow, formatS, place]
  ext i hi
  interval_cases i <;> simp

theorem baudLookup (rate : Rate) : Statement (.baudLookup rate) := by
  simp only [Statement, encode, tableRow, formatB, place]
  ext i hi
  interval_cases i <;> simp

theorem spiFrameWrite (c : Chan) (r : Reg) : Statement (.spiFrameWrite c r) := by
  simp only [Statement, encode, tableRow]
  revert c r
  decide

theorem spiFrameRead (c : Chan) (r : Reg) : Statement (.spiFrameRead c r) := by
  simp only [Statement, encode, tableRow]
  revert c r
  decide

theorem i2cAddrW (t : Target) : Statement (.i2cAddrW t) := by
  simp only [Statement, encode, tableRow]
  revert t
  decide

theorem i2cAddrR (t : Target) : Statement (.i2cAddrR t) := by
  simp only [Statement, encode, tableRow]
  revert t
  decide

theorem bcStartW (t : Target) : Statement (.bcStartW t) := by
  simp only [Statement, encode, tableRow]
  revert t
  decide

theorem bcWrite (b : Byte) : Statement (.bcWrite b) := by
  simp only [Statement, encode, tableRow]
  revert b
  decide

theorem bcRstartR (t : Target) : Statement (.bcRstartR t) := by
  simp only [Statement, encode, tableRow]
  revert t
  decide

theorem bcNackStop : Statement (.bcNackStop) := rfl

theorem bcStop : Statement (.bcStop) := rfl

theorem evAck : Statement (.evAck) := rfl

theorem evNack : Statement (.evNack) := rfl

theorem evTxe : Statement (.evTxe) := rfl

theorem evRxv (b : Byte) : Statement (.evRxv b) := by
  simp only [Statement, encode, tableRow]
  revert b
  decide

theorem evStopd : Statement (.evStopd) := rfl

theorem uSelect (d : BitVec 2) : Statement (.uSelect d) := by
  simp only [Statement, encode, tableRow]
  revert d
  decide

theorem uDeselect (d : BitVec 2) : Statement (.uDeselect d) := by
  simp only [Statement, encode, tableRow]
  revert d
  decide

theorem uDelay (id : DelayId) : Statement (.uDelay id) := by cases id <;> rfl

theorem uXfer (b : Byte) : Statement (.uXfer b) := by
  simp only [Statement, encode, tableRow]
  revert b
  decide

end Sys2Proof.Laws.EncodingRow
end

