-- ==== Sys2Proof/Laws/Step.lean ====
section
/-! SUPPORT. What a step of each kind does, and runs put together from steps (spec/60_exceptions.md R320, R321;
spec/41_spi_register_access.md R181). -/

namespace Sys2Proof.Machine

theorem step_sequencer (s : State) (rest : List Turn) (u : Half) (us : List Half) (i : Instr) (h : s.halted = false)
    (ha : s.agenda = .sequencer :: rest) (hq : s.spiSeq = u :: us) (hd : decodeMicro u = .ok i) :
    step s = exec i { s with agenda := rest, spiSeq := us } := by
  simp only [step, fetch_sequencer s rest u us h ha hq, decode, hd]

/-- The sequencer selects a device while nothing is selected (R211). -/
theorem step_select (s : State) (rest : List Turn) (d : Device) (us : List Half) (h : s.halted = false)
    (ha : s.agenda = .sequencer :: rest) (hq : s.spiSeq = selectWord d.bits :: us)
    (hl : linesSelected s.csSel = []) :
    step s = .next { s with
      agenda := rest
      spiSeq := us
      csSel := s.csSel.set d true
      spiLog := s.spiLog ++ [.select d]
      spiFrame := .opened } := by
  rw [step_sequencer s rest _ us _ h ha hq (decodeMicro_selectWord d)]
  simp only [exec, execUSelect, device_ofBits_bits]
  exact congrArg _ (selectLine_free d { s with agenda := rest, spiSeq := us } hl)

/-- The sequencer waits a delay (R345). -/
theorem step_delay (s : State) (rest : List Turn) (id : DelayId) (us : List Half) (h : s.halted = false)
    (ha : s.agenda = .sequencer :: rest) (hq : s.spiSeq = delayWord id :: us) :
    step s = .next { s with agenda := rest, spiSeq := us, spiLog := s.spiLog ++ [.delay id] } :=
  step_sequencer s rest _ us _ h ha hq (decodeMicro_delayWord id)

/-- The sequencer exchanges a byte (R180). -/
theorem step_xfer (s : State) (rest : List Turn) (b : Byte) (us : List Half) (h : s.halted = false)
    (ha : s.agenda = .sequencer :: rest) (hq : s.spiSeq = xferWord b :: us) :
    step s = .next { s with
      agenda := rest
      spiSeq := us
      spiRx := some (exchangeReply s)
      spiLog := s.spiLog ++ [.xfer b (exchangeReply s)]
      spiFrame := exchangePhase b s.spiFrame
      bridgeStore := exchangeStore b s
      draws := s.draws + 1 } :=
  step_sequencer s rest _ us _ h ha hq (decodeMicro_xferWord b)

/-- The sequencer exchanges the first byte of a frame: it is the command byte, and no cell acts (R110, R189). -/
theorem step_xfer_opened (s : State) (rest : List Turn) (b : Byte) (us : List Half) (h : s.halted = false)
    (ha : s.agenda = .sequencer :: rest) (hq : s.spiSeq = xferWord b :: us) (hf : s.spiFrame = .opened) :
    step s = .next { s with
      agenda := rest
      spiSeq := us
      spiRx := some (Config.freeByte s.draws)
      spiLog := s.spiLog ++ [.xfer b (Config.freeByte s.draws)]
      spiFrame := .commanded (cmdDir b) (cmdChan b) (cmdReg b)
      draws := s.draws + 1 } := by
  have hc : frameCell s = none := by simp only [frameCell, hf]
  rw [step_xfer s rest b us h ha hq, exchangeReply_of_no_cell s hc, exchangeStore_of_no_cell b s hc, hf]
  rfl

/-- The sequencer deselects a device (R212). -/
theorem step_deselect (s : State) (rest : List Turn) (d : Device) (us : List Half) (h : s.halted = false)
    (ha : s.agenda = .sequencer :: rest) (hq : s.spiSeq = deselectWord d.bits :: us) :
    step s = .next { s with
      agenda := rest
      spiSeq := us
      csSel := s.csSel.set d false
      spiLog := s.spiLog ++ [.deselect d]
      spiFrame := if (linesSelected (s.csSel.set d false)).isEmpty then .closed else s.spiFrame } := by
  rw [step_sequencer s rest _ us _ h ha hq (decodeMicro_deselectWord d)]
  simp only [exec, execUDeselect, device_ofBits_bits]
  rfl

/-- The host issues a word (R320). -/
theorem step_host_issues (s : State) (rest : List Turn) (w : Word) (ws : List Word) (i : Instr) (h : s.halted = false)
    (ha : s.agenda = .host :: rest) (hb : s.spiBusy = false) (hw : s.hostWords = w :: ws)
    (hd : decodeHost w = .ok i) : step s = exec i { s with agenda := rest, hostWords := ws } := by
  simp only [step, fetch_host_issues s rest w ws h ha hb hw, decode, hd]

/-- The host goes on in its procedure (R181). -/
theorem step_host_resumes (s : State) (rest : List Turn) (h : s.halted = false) (ha : s.agenda = .host :: rest)
    (hb : s.spiBusy = true) (hq : s.spiSeq = []) :
    step s = .next (runCalls s.hostOp { s with agenda := rest }) := by
  simp only [step, fetch_host_resumes s rest h ha hb hq]

/-- The engine consumes an event (R144). -/
theorem step_engine (s : State) (rest : List Turn) (e : Half) (es : List Half) (i : Instr) (h : s.halted = false)
    (ha : s.agenda = .engine :: rest) (he : s.events = e :: es) (hd : decodeEvent e = .ok i) :
    step s = exec i { s with agenda := rest, events := es } := by
  simp only [step, fetch_engine s rest e es h ha he, decode, hd]

/-- Every step takes the next turn of a state that is not halted. -/
theorem step_next_takes_a_turn (s t : State) (hs : step s = .next t) :
    s.halted = false ∧ ∃ turn rest, s.agenda = turn :: rest := by
  cases hh : s.halted
  · cases ha : s.agenda with
    | nil => simp [step, fetch_no_turn s hh ha] at hs
    | cons turn rest => exact ⟨rfl, turn, rest, rfl⟩
  · simp [step, fetch_halted s hh] at hs

/-- The next turn, which leaves the turns `rest`, takes the word `p` and leaves the state `u`. -/
inductive TakesWord (s : State) (rest : List Turn) : PortWord → State → Prop
  | host (w : Word) (ws : List Word) (ha : s.agenda = .host :: rest) (hb : s.spiBusy = false)
      (hw : s.hostWords = w :: ws) : TakesWord s rest (.host w) { s with agenda := rest, hostWords := ws }
  | event (e : Half) (es : List Half) (ha : s.agenda = .engine :: rest) (he : s.events = e :: es) :
      TakesWord s rest (.event e) { s with agenda := rest, events := es }
  | micro (u : Half) (us : List Half) (ha : s.agenda = .sequencer :: rest) (hq : s.spiSeq = u :: us) :
      TakesWord s rest (.micro u) { s with agenda := rest, spiSeq := us }
  | bench (p : PortWord) (ha : s.agenda = .bench p :: rest) : TakesWord s rest p { s with agenda := rest }

/-- Everything a turn that does not end in a stop can come to: a word is taken, the blocked host goes on in its procedure,
or the turn passes. -/
theorem fetch_cases (s : State) (turn : Turn) (rest : List Turn) (h : s.halted = false)
    (ha : s.agenda = turn :: rest) :
    (∃ p u, TakesWord s rest p u ∧ fetch s = .word p u) ∨
    (turn = .host ∧ s.spiBusy = true ∧ s.spiSeq = [] ∧
      fetch s = .moved (runCalls s.hostOp { s with agenda := rest })) ∨
    fetch s = .moved { s with agenda := rest } := by
  cases turn with
  | host =>
    rcases Bool.eq_false_or_eq_true s.spiBusy with hb | hb
    · by_cases hq : s.spiSeq = []
      · exact .inr (.inl ⟨rfl, hb, hq, fetch_host_resumes s rest h ha hb hq⟩)
      · exact .inr (.inr (fetch_host_blocked s rest h ha hb hq))
    · by_cases hw : s.hostWords = []
      · exact .inr (.inr (fetch_host_idle s rest h ha hb hw))
      · obtain ⟨w, ws, hw⟩ := List.exists_cons_of_ne_nil hw
        exact .inl ⟨_, _, .host w ws ha hb hw, fetch_host_issues s rest w ws h ha hb hw⟩
  | engine =>
    by_cases he : s.events = []
    · exact .inr (.inr (fetch_engine_idle s rest h ha he))
    · obtain ⟨e, es, he⟩ := List.exists_cons_of_ne_nil he
      exact .inl ⟨_, _, .event e es ha he, fetch_engine s rest e es h ha he⟩
  | sequencer =>
    by_cases hq : s.spiSeq = []
    · exact .inr (.inr (fetch_sequencer_idle s rest h ha hq))
    · obtain ⟨u, us, hq⟩ := List.exists_cons_of_ne_nil hq
      exact .inl ⟨_, _, .micro u us ha hq, fetch_sequencer s rest u us h ha hq⟩
  | bench p => exact .inl ⟨_, _, .bench p ha, fetch_bench s rest p h ha⟩

/-- Everything a step that gives a next state can do. -/
theorem step_cases (s t : State) (hs : step s = .next t) :
    s.halted = false ∧ ∃ turn rest, s.agenda = turn :: rest ∧
      ((∃ p u i, TakesWord s rest p u ∧ decode p = .ok i ∧ exec i u = .next t) ∨
       (∃ p u e, TakesWord s rest p u ∧ decode p = .error e ∧ rejectWord p u = .next t) ∨
       (turn = .host ∧ s.spiBusy = true ∧ s.spiSeq = [] ∧ t = runCalls s.hostOp { s with agenda := rest }) ∨
       t = { s with agenda := rest }) := by
  obtain ⟨hh, turn, rest, ha⟩ := step_next_takes_a_turn s t hs
  refine ⟨hh, turn, rest, ha, ?_⟩
  unfold step at hs
  rcases fetch_cases s turn rest hh ha with ⟨p, u, hu, hf⟩ | ⟨ht, hb, hq, hf⟩ | hf <;> simp only [hf] at hs
  · cases hd : decode p with
    | ok i => exact .inl ⟨p, u, i, hu, hd, by simpa only [hd] using hs⟩
    | error e => exact .inr (.inl ⟨p, u, e, hu, hd, by simpa only [hd] using hs⟩)
  · cases hs
    exact .inr (.inr (.inl ⟨ht, hb, hq, rfl⟩))
  · cases hs
    exact .inr (.inr (.inr rfl))

/-- A rejected word records one fault (R291, R297), or is a byte, which none rejects. -/
theorem rejectWord_cases (p : PortWord) (s t : State) (h : rejectWord p s = .next t) :
    t = s ∨ ∃ f, t = raiseFault f s := by
  cases p <;> simp only [rejectWord] at h <;> cases h
  · exact .inr ⟨_, rfl⟩
  · exact .inl rfl
  · exact .inl rfl
  · exact .inr ⟨_, rfl⟩

theorem runsTo_zero (s : State) : runsTo 0 s s := rfl

theorem runsTo_step {n : Nat} {s t u : State} (h : step s = .next t) (h' : runsTo n t u) : runsTo (n + 1) s u := by
  simp only [runsTo, Host.Core.run, core, h]
  exact h'

theorem runsTo_append {n m : Nat} {s t u : State} (h : runsTo n s t) (h' : runsTo m t u) : runsTo (n + m) s u := by
  induction n generalizing s with
  | zero =>
    cases h
    rwa [Nat.zero_add]
  | succ n ih =>
    rw [Nat.add_right_comm]
    simp only [runsTo, Host.Core.run] at h ⊢
    cases hs : core.step s with
    | next s' =>
      rw [hs] at h
      exact ih h
    | fault r => simp [hs] at h
    | refused r => simp [hs] at h

end Sys2Proof.Machine
end

