-- ==== Sys2Proof/Tests/Slice0.lean ====
section
/-! SUPPORT. Tests: ill-formed terms, words written out from spec/30_encoding.md and spec/95_test_vectors.md, single steps
from the vectors of spec/95_test_vectors.md, and for every statement with hypotheses a witness that meets them. -/

namespace Sys2Proof.Tests

open Sys2Proof Sys2Proof.Machine

/-- The next state of an outcome. -/
def nextOf (o : Host.Outcome State Fault Refusal) : Option State :=
  match o with
  | .next s => some s
  | _ => none

/-- One field of the next state. -/
def nextField {α : Type} (o : Host.Outcome State Fault Refusal) (f : State → α) : Option α := (nextOf o).map f

/-! ### WellFormed (R115) -/

theorem test_select_of_device_three_is_ill_formed : WellFormed (.uSelect 3#2) = false := by decide

theorem test_deselect_of_device_three_is_ill_formed : WellFormed (.uDeselect 3#2) = false := by decide

theorem test_select_of_a_device_is_well_formed :
    WellFormed (.uSelect 2#2) = true ∧ WellFormed (.uDeselect 0#2) = true := by decide

theorem test_host_word_of_device_three_is_well_formed : WellFormed (.spiWrite 3#2 0#2 0#5 0#8) = true := by decide

/-! ### Decoding: host words (R101 to R109, spec/95_test_vectors.md parts 1, 2.1 and 2.6) -/

theorem test_decode_i2c_start :
    decodeHost 0x10501000#32 = .ok (.i2cStart 0x50#7 0x10#8) ∧
    decodeHost 0x107FFF00#32 = .ok (.i2cStart 0x7F#7 0xFF#8) := ⟨rfl, rfl⟩

theorem test_decode_i2c_isdone : decodeHost 0x20000000#32 = .ok .i2cIsdone := rfl

theorem test_decode_i2c_getbyte : decodeHost 0x30000000#32 = .ok .i2cGetbyte := rfl

theorem test_decode_spi_write :
    decodeHost 0x411C009C#32 = .ok (.spiWrite 0#2 1#2 0x1C#5 0x9C#8) ∧
    decodeHost 0x4B1F00FF#32 = .ok (.spiWrite 2#2 3#2 31#5 0xFF#8) := ⟨rfl, rfl⟩

theorem test_decode_spi_read :
    decodeHost 0x511C0000#32 = .ok (.spiRead 0#2 1#2 0x1C#5) ∧
    decodeHost 0x591C0000#32 = .ok (.spiRead 2#2 1#2 0x1C#5) := ⟨rfl, rfl⟩

theorem test_decode_uart_init :
    decodeHost 0x64002580#32 = .ok (.uartInit 1#2 9600#24) ∧
    decodeHost 0x60000001#32 = .ok (.uartInit 0#2 1#24) := ⟨rfl, rfl⟩

theorem test_decode_uart_sendchar :
    decodeHost 0x7000004F#32 = .ok (.uartSendchar 0#2 0#2 0x4F#8) ∧
    decodeHost 0x7B000000#32 = .ok (.uartSendchar 2#2 3#2 0#8) := ⟨rfl, rfl⟩

theorem test_decode_uart_recvchar : decodeHost 0x8B000000#32 = .ok (.uartRecvchar 2#2 3#2) := rfl

theorem test_decode_uart_avail : decodeHost 0x92000000#32 = .ok (.uartAvail 0#2 2#2) := rfl

theorem test_decode_uart_geterr : decodeHost 0xA7000000#32 = .ok (.uartGeterr 1#2 3#2) := rfl

theorem test_decode_uart_clrerr : decodeHost 0xB7000000#32 = .ok (.uartClrerr 1#2 3#2) := rfl

theorem test_decode_baud_lookup :
    decodeHost 0xC0002580#32 = .ok (.baudLookup 9600#24) ∧
    decodeHost 0xC0FFFFFF#32 = .ok (.baudLookup 16777215#24) := ⟨rfl, rfl⟩

/-- Part 2.1: the reserved opcodes. -/
theorem test_decode_reserved_opcodes :
    [0x00000000#32, 0xD0000000#32, 0xE0000000#32, 0xF0000000#32, 0xDC000000#32].map (fun w => (decodeHost w).toOption)
      = [none, none, none, none, none] := by decide

/-- Part 2.1: must-be-zero bits, one word of each format. -/
theorem test_decode_must_be_zero_bits :
    [0x20000001#32, 0x10801000#32, 0x10501001#32, 0x40200000#32, 0x511C0001#32, 0x61002580#32, 0x7001004F#32,
      0x80000001#32, 0xC4002580#32].map (fun w => (decodeHost w).toOption)
      = [none, none, none, none, none, none, none, none, none] := by decide

/-! ### Decoding: the other ports -/

theorem test_decode_spi_frame_write :
    decodeCommand 0xBC#8 = .spiFrameWrite 1#2 0x1C#5 ∧ decodeCommand 0xC5#8 = .spiFrameWrite 2#2 5#5 := by decide

theorem test_decode_spi_frame_read :
    decodeCommand 0x3C#8 = .spiFrameRead 1#2 0x1C#5 ∧ decodeCommand 0x7F#8 = .spiFrameRead 3#2 31#5 := by decide

theorem test_decode_i2c_addr_w :
    decodeAddress 0xA0#8 = .i2cAddrW 0x50#7 ∧ decodeAddress 0xFE#8 = .i2cAddrW 0x7F#7 := by decide

theorem test_decode_i2c_addr_r :
    decodeAddress 0xA1#8 = .i2cAddrR 0x50#7 ∧ decodeAddress 0x01#8 = .i2cAddrR 0x00#7 := by decide

theorem test_decode_bus_commands :
    decodeBus 0x10A0#16 = .ok (.bcStartW 0x50#7) ∧ decodeBus 0x2010#16 = .ok (.bcWrite 0x10#8) ∧
    decodeBus 0x30A1#16 = .ok (.bcRstartR 0x50#7) ∧ decodeBus 0x4000#16 = .ok .bcNackStop ∧
    decodeBus 0x5000#16 = .ok .bcStop := ⟨rfl, rfl, rfl, rfl, rfl⟩

/-- R113: a start carries the write bit, a stop carries no byte, and 0x0 and 0x6 are no bus command. -/
theorem test_decode_bus_commands_never_issued :
    [0x10A1#16, 0x30A0#16, 0x4001#16, 0x5001#16, 0x6000#16, 0x2110#16].map (fun w => (decodeBus w).toOption)
      = [none, none, none, none, none, none] := by decide

theorem test_decode_events :
    decodeEvent 0x0000#16 = .ok .evAck ∧ decodeEvent 0x0001#16 = .ok .evNack ∧ decodeEvent 0x0002#16 = .ok .evTxe ∧
    decodeEvent 0x4203#16 = .ok (.evRxv 0x42#8) ∧ decodeEvent 0x0004#16 = .ok .evStopd :=
  ⟨rfl, rfl, rfl, rfl, rfl⟩

/-- Part 2.2: the reserved event words. -/
theorem test_decode_reserved_events :
    [0x0005#16, 0x0006#16, 0x0007#16, 0x0008#16, 0x0100#16, 0x0105#16, 0x420B#16].map
      (fun w => (decodeEvent w).toOption) = [none, none, none, none, none, none, none] := by decide

theorem test_decode_micro_operations :
    decodeMicro 0x1100#16 = .ok (.uSelect 1#2) ∧ decodeMicro 0x2200#16 = .ok (.uDeselect 2#2) ∧
    decodeMicro 0x3002#16 = .ok (.uDelay .tResetSettle) ∧ decodeMicro 0x3003#16 = .ok (.uDelay .tPllLock) ∧
    decodeMicro 0x40BC#16 = .ok (.uXfer 0xBC#8) := ⟨rfl, rfl, rfl, rfl, rfl⟩

/-- R115 and R116: UDEV = 3, an unlisted delay id, a set unused field, a set bit 10, an unlisted UOP. -/
theorem test_decode_micro_operations_never_generated :
    [0x1300#16, 0x2300#16, 0x3004#16, 0x1101#16, 0x4100#16, 0x1500#16, 0x5000#16, 0x0000#16].map
      (fun w => (decodeMicro w).toOption) = [none, none, none, none, none, none, none, none] := by decide

/-- Part 2.3: the command bytes of the table, in its order. -/
theorem test_command_bytes :
    [cmdByte .write 0#2 0#5, cmdByte .read 0#2 0#5, cmdByte .write 3#2 31#5, cmdByte .read 3#2 31#5,
      cmdByte .write 1#2 0x1C#5, cmdByte .read 1#2 0x1C#5, cmdByte .write 2#2 5#5, cmdByte .read 2#2 5#5]
      = [0x80#8, 0x00#8, 0xFF#8, 0x7F#8, 0xBC#8, 0x3C#8, 0xC5#8, 0x45#8] := by decide

/-- Part 2.2: the address bytes. -/
theorem test_address_bytes :
    [addrByte 0x00#7 0#1, addrByte 0x00#7 1#1, addrByte 0x7F#7 0#1, addrByte 0x7F#7 1#1, addrByte 0x50#7 0#1,
      addrByte 0x50#7 1#1] = [0x00#8, 0x01#8, 0xFE#8, 0xFF#8, 0xA0#8, 0xA1#8] := by decide

/-! ### Table words and the first step after reset -/

/-- A word of each 32-bit row, as the table numbers bits. -/
theorem test_table_words_of_host_rows :
    decodeTableWord 32 0x10501000 = some (.i2cStart 0x50#7 0x10#8) ∧
    decodeTableWord 32 0x6C002580 = some (.uartInit 3#2 9600#24) ∧
    decodeTableWord 32 0xC0000000 = some (.baudLookup 0#24) := ⟨rfl, rfl, rfl⟩

/-- The 16-bit and 8-bit rows: a word that only one encoding has, or the row preferred (notes/assumptions/20.md). -/
theorem test_table_words_of_short_rows :
    decodeTableWord 16 0x0000 = some .evAck ∧ decodeTableWord 16 0x4203 = some (.evRxv 0x42#8) ∧
    decodeTableWord 16 0x10A0 = some (.bcStartW 0x50#7) ∧ decodeTableWord 16 0x3001 = some (.bcRstartR 0#7) ∧
    decodeTableWord 16 0x4000 = some .bcNackStop ∧ decodeTableWord 16 0x5000 = some .bcStop ∧
    decodeTableWord 16 0x1000 = some (.uSelect 0#2) ∧ decodeTableWord 16 0x3000 = some (.uDelay .tCss) ∧
    decodeTableWord 8 0x80 = some (.spiFrameWrite 0#2 0#5) ∧ decodeTableWord 8 0x00 = some (.i2cAddrW 0#7) ∧
    decodeTableWord 8 0x01 = some (.i2cAddrR 0#7) ∧ decodeTableWord 8 0x3C = some (.spiFrameRead 1#2 0x1C#5) :=
  ⟨rfl, rfl, rfl, rfl, rfl, rfl, rfl, rfl, rfl, rfl, rfl, rfl⟩

theorem test_a_placed_host_word_runs_next :
    nextField (step (State.reset.withFetchWord 32 0x10501000)) (fun t => (t.i2cState, t.i2cLog, t.hostWords, t.agenda))
      = some (.sendAddr, [.startW 0xA0#8], [], []) := by decide

theorem test_a_placed_event_runs_next :
    nextField (step (State.reset.withFetchWord 16 0x0001)) (fun t => (t.i2cDone, t.i2cLog, t.events))
      = some (true, [.stop], []) := by decide

theorem test_a_placed_micro_operation_runs_next :
    nextField (step (State.reset.withFetchWord 16 0x1000)) (fun t => (t.csSel, t.spiLog, t.spiSeq))
      = some (⟨true, false, false⟩, [.select .devA], []) := by decide

theorem test_a_placed_address_byte_runs_next :
    nextField (step (State.reset.withFetchWord 8 0x01)) (fun t => t.i2cLog) = some [.rstartR 0x01#8] := by decide

/-- R32: the codes of the five states, and the reserved codes. -/
theorem test_engine_state_codes :
    [I2cState.idle, .sendAddr, .sendReg, .read, .waitStop].map I2cState.bits = [0#3, 1#3, 2#3, 3#3, 4#3] ∧
    [5#3, 6#3, 7#3].map I2cState.ofBits = [none, none, none] := by decide

/-- The table of R290, each code with its information. -/
theorem test_fault_codes :
    ([.illegalOp 0xF0000000#32, .invalidDevice 0x7C000000#32, .csConflict .devB [.devA], .spiReentry 0x38C0009C#32,
      .channelNotConfigured 0x70000041#32, .i2cUnlistedEvent .sendAddr 0x0002#16, .i2cReservedEvent 0x0005#16].map
        fun f : FaultRecord => (f.code, f.info)) =
      [(0x01#8, .word 0xF0000000#32), (0x02#8, .word 0x7C000000#32), (0x03#8, .selection .devB [.devA]),
       (0x04#8, .word 0x38C0009C#32), (0x05#8, .word 0x70000041#32),
       (0x06#8, .stateAndEvent .sendAddr 0x0002#16), (0x07#8, .event 0x0005#16)] ∧
    [0x00#8, 0x03#8, 0x08#8, 0xFF#8].map (fun c => FaultRecord.ofEntry c (.word 0#32)) = [none, none, none, none] := by
  decide

/-- The numbers of R117. -/
theorem test_result_values :
    [HostResult.initOk, .initUnsupported, .bit true, .bit false, .byte 0x42#8, .divisor 26#16].map HostResult.value =
      [some 0, some 1, some 1, some 0, some 0x42, some 26] ∧
    [HostResult.nothing, .unsupported].map HostResult.value = [none, none] := by decide

/-! ### States the tests start from -/

/-- The engine in one state of the transaction `i2c.start 0x50, 0x10`. -/
def engineIn (st : I2cState) : State :=
  { State.reset with
    i2cState := st
    i2cTarget := some 0x50#7
    i2cReg := some 0x10#8
    i2cLastByte := if st = .waitStop then some 0x42#8 else none }

/-- After L1-1: Idle, done, the byte 0x42. -/
def afterRead : State := { engineIn .idle with i2cLastByte := some 0x42#8, i2cDone := true }

/-- One chip-select line asserted. -/
def selected (d : Device) : State := { State.reset with csSel := State.reset.csSel.set d true, spiFrame := .opened }

/-- The test double chosen (R52). -/
def withTestDouble (s : State) : State := { s with options := { s.options with bridgeModel := .testDouble } }

/-- Every device configured with divisor 26 (R233). -/
def configured : State := { State.reset with devConfigured := ⟨true, true, true⟩ }

/-- A state with a host word to issue and a schedule. -/
def scheduled (s : State) (ws : List Word) (ag : List Turn) : State := { s with hostWords := ws, agenda := ag }

/-! ### Single steps: I2C (parts 1 and 2.2) -/

theorem test_i2c_start_from_idle :
    nextField (exec (.i2cStart 0x50#7 0x10#8) afterRead)
      (fun t => (t.i2cState, t.i2cDone, t.i2cLastByte, t.i2cLog, t.results))
      = some (.sendAddr, false, none, [.startW 0xA0#8], [.nothing]) := by rfl

/-- L1-2. -/
theorem test_i2c_start_in_flight :
    nextField (exec (.i2cStart 0x68#7 0x75#8) (engineIn .sendReg))
      (fun t => (t.i2cState, t.i2cTarget, t.i2cReg, t.i2cLog)) = some (.sendReg, some 0x50#7, some 0x10#8, []) := by
  decide

theorem test_i2c_isdone_consumes :
    nextField (exec .i2cIsdone { afterRead with options := { afterRead.options with isdoneConsumes := .yes } })
      (fun t => (t.results, t.i2cDone)) = some ([.bit true], false) := by decide

theorem test_i2c_isdone_from_reset :
    nextField (exec .i2cIsdone State.reset) (fun t => (t.results, t.i2cDone, t.draws)) = some ([.bit false], false, 0) := by
  decide

theorem test_i2c_getbyte_in_wait_stop :
    nextField (exec .i2cGetbyte (engineIn .waitStop)) (fun t => (t.results, t.i2cDone, t.draws))
      = some ([.byte 0x42#8], false, 0) := by decide

/-- Part 2.2: any byte; the captured byte is not used after a nack end. -/
theorem test_i2c_getbyte_after_a_nack :
    nextField (exec .i2cGetbyte { afterRead with i2cNackEnd := true }) (fun t => t.results)
      = some [.byte (Config.freeByte 0)] := rfl

theorem test_ev_ack_in_send_addr :
    nextField (exec .evAck (engineIn .sendAddr)) (fun t => (t.i2cState, t.i2cLog)) = some (.sendReg, [.write 0x10#8]) := by
  decide

theorem test_ev_ack_in_read :
    nextField (exec .evAck (engineIn .read)) (fun t => (t.i2cState, t.faults, t.halted))
      = some (.read, [.i2cUnlistedEvent .read 0x0000#16], true) := by decide

theorem test_ev_nack_in_wait_stop :
    nextField (exec .evNack (engineIn .waitStop)) (fun t => (t.i2cState, t.i2cDone, t.i2cNackEnd, t.i2cLog))
      = some (.idle, true, true, [.stop]) := by decide

theorem test_ev_txe_in_send_reg :
    nextField (exec .evTxe (engineIn .sendReg)) (fun t => (t.i2cState, t.i2cLog)) = some (.read, [.rstartR 0xA1#8]) := by
  decide

theorem test_ev_txe_ignored_in_send_addr :
    nextField (exec .evTxe { engineIn .sendAddr with
      options := { Config.defaultOptions with unlistedEvent := .ignore } }) (fun t => (t.i2cState, t.faults))
      = some (.sendAddr, []) := by decide

theorem test_ev_rxv_in_read :
    nextField (exec (.evRxv 0xFF#8) (engineIn .read)) (fun t => (t.i2cState, t.i2cLastByte, t.i2cLog, t.i2cDone))
      = some (.waitStop, some 0xFF#8, [.nackStop], false) := by decide

/-- The event word recorded carries the byte: 0x5503. -/
theorem test_ev_rxv_in_send_reg :
    nextField (exec (.evRxv 0x55#8) (engineIn .sendReg)) (fun t => t.faults)
      = some [.i2cUnlistedEvent .sendReg 0x5503#16] := by decide

theorem test_ev_stopd_in_wait_stop :
    nextField (exec .evStopd (engineIn .waitStop)) (fun t => (t.i2cState, t.i2cDone, t.i2cNackEnd))
      = some (.idle, true, false) := by decide

theorem test_ev_stopd_in_idle :
    nextField (exec .evStopd State.reset) (fun t => (t.i2cState, t.i2cLog, t.i2cLastByte, t.faults))
      = some (.idle, [], none, []) := by decide

/-! ### Single steps: bus commands, address bytes, micro-operations (parts 1 and 2.4) -/

theorem test_bus_commands_are_issued :
    [Instr.bcStartW 0x50#7, .bcWrite 0x10#8, .bcRstartR 0x50#7, .bcNackStop, .bcStop].map
      (fun i => nextField (exec i State.reset) (fun t => t.i2cLog))
      = [some [.startW 0xA0#8], some [.write 0x10#8], some [.rstartR 0xA1#8], some [.nackStop], some [.stop]] := by
  decide

theorem test_address_bytes_are_issued :
    [Instr.i2cAddrW 0x7F#7, .i2cAddrR 0x7F#7].map (fun i => nextField (exec i State.reset) (fun t => t.i2cLog))
      = [some [.startW 0xFE#8], some [.rstartR 0xFF#8]] := by decide

theorem test_u_select :
    nextField (exec (.uSelect 1#2) State.reset) (fun t => (t.csSel, t.spiLog))
      = some (⟨false, true, false⟩, [.select .devB]) := by decide

theorem test_u_select_conflict :
    nextField (exec (.uSelect 0#2) (selected .devB)) (fun t => (t.csSel, t.spiLog, t.faults))
      = some (⟨false, true, false⟩, [], [.csConflict .devA [.devB]]) := by decide

theorem test_u_deselect :
    nextField (exec (.uDeselect 1#2) (selected .devB)) (fun t => (t.csSel, t.spiFrame))
      = some (⟨false, false, false⟩, .closed) := by decide

theorem test_u_deselect_not_selected :
    nextField (exec (.uDeselect 2#2) State.reset) (fun t => (t.csSel, t.spiLog, t.faults))
      = some (⟨false, false, false⟩, [.deselect .devC], []) := by decide

theorem test_u_delay :
    nextField (exec (.uDelay .tPllLock) State.reset) (fun t => t.spiLog) = some [.delay .tPllLock] := by decide

/-- L1-5: the second exchange of a write frame sets the cell. -/
theorem test_u_xfer_writes_the_cell :
    nextField (exec (.uXfer 0x9C#8) (withTestDouble { selected .devA with spiFrame := .commanded .write 1#2 0x1C#5 }))
      (fun t => (t.bridgeStore, t.spiFrame)) = some ([(60, 0x9C#8)], .ended) := by decide

/-- L1-5: the second exchange of a read frame replies the cell. -/
theorem test_u_xfer_reads_the_cell :
    nextField (exec (.uXfer 0x00#8) (withTestDouble { selected .devA with
      spiFrame := .commanded .read 1#2 0x1C#5, bridgeStore := [(60, 0x9C#8)] }))
      (fun t => (t.spiRx, t.spiLog, t.bridgeStore)) = some (some 0x9C#8, [.xfer 0x00#8 0x9C#8], [(60, 0x9C#8)]) := by
  decide

theorem test_spi_frame_bytes_open_the_frame :
    nextField (exec (.spiFrameWrite 1#2 0x1C#5) (selected .devA)) (fun t => t.spiFrame)
      = some (.commanded .write 1#2 0x1C#5) ∧
    nextField (exec (.spiFrameRead 3#2 31#5) (selected .devA)) (fun t => t.spiFrame)
      = some (.commanded .read 3#2 31#5) := by decide

theorem test_spi_frame_byte_is_sent :
    nextField (exec (.spiFrameWrite 1#2 0x1C#5) (selected .devA)) (fun t => t.spiLog)
      = some [.xfer 0xBC#8 (Config.freeByte 0)] := rfl

/-! ### Single steps: bridge operations (parts 1, 2.1 and 2.6) -/

/-- L1-5: the micro-operation words of `spi.write A, 1, 0x1C, 156`. -/
theorem test_spi_write_hands_over_its_frame :
    nextField (exec (.spiWrite 0#2 1#2 0x1C#5 0x9C#8) State.reset) (fun t => (t.spiBusy, t.spiSeq))
      = some (true, [0x1000#16, 0x3000#16, 0x40BC#16, 0x409C#16, 0x3001#16, 0x2000#16]) := by decide

theorem test_spi_write_of_device_three :
    nextField (exec (.spiWrite 3#2 0#2 0#5 0#8) State.reset) (fun t => (t.faults, t.spiBusy))
      = some ([.invalidDevice 0x4C000000#32], false) := by decide

/-- R185: whatever the legal DEV, the command byte is 0x3C and the dummy byte 0x00. -/
theorem test_spi_read_hands_over_its_frame :
    nextField (exec (.spiRead 2#2 1#2 0x1C#5) State.reset) (fun t => (t.spiSeq.drop 1).take 4)
      = some [0x3000#16, 0x403C#16, 0x4000#16, 0x3001#16] := by decide

theorem test_spi_read_while_busy :
    nextField (exec (.spiRead 3#2 1#2 0x1C#5) { State.reset with spiBusy := true }) (fun t => t.faults)
      = some [.spiReentry 0x5D1C0000#32] := by decide

theorem test_uart_init_unsupported :
    nextField (exec (.uartInit 0#2 1#24) configured) (fun t => (t.results, t.spiBusy, t.devConfigured))
      = some ([.initUnsupported], false, ⟨true, true, true⟩) := by decide

theorem test_uart_init_supported :
    nextField (exec (.uartInit 1#2 9600#24) configured) (fun t => (t.spiBusy, t.devConfigured, t.spiSeq.length))
      = some (true, ⟨true, false, true⟩, 6) := by decide

theorem test_uart_sendchar_of_device_three :
    nextField (exec (.uartSendchar 3#2 0#2 0x4F#8) State.reset) (fun t => t.faults)
      = some [.invalidDevice 0x7C00004F#32] := by decide

theorem test_uart_sendchar_unconfigured :
    nextField (exec (.uartSendchar 1#2 0#2 0x4F#8) State.reset) (fun t => t.faults)
      = some [.channelNotConfigured 0x7400004F#32] := by decide

theorem test_uart_recvchar_starts :
    nextField (exec (.uartRecvchar 2#2 3#2) configured) (fun t => (t.spiBusy, t.hostOp.length)) = some (true, 3) := by
  decide

theorem test_uart_avail_ends :
    [0#8, 5#8, 0xFF#8].map (fun lvl => (runCalls [.finish .nonZero] { configured with spiRx := some lvl }).results)
      = [[.bit false], [.bit true], [.bit true]] := by decide

theorem test_uart_geterr_starts :
    nextField (exec (.uartGeterr 1#2 3#2) configured) (fun t => (t.spiBusy, t.hostOp, t.spiSeq[0]?))
      = some (true, [.finish .maskedErrors], some 0x1100#16) := by decide

theorem test_uart_clrerr_starts :
    nextField (exec (.uartClrerr 1#2 3#2) configured) (fun t => (t.spiBusy, t.hostOp, t.spiSeq[5]?))
      = some (true, [.finish .nothing], some 0x2100#16) := by decide

/-- Part 2.6: OE, PE, FE, BI at bits 1, 2, 3, 4 make the mask 0x1E, and the mask picks the error bits. -/
theorem test_error_mask_of_the_premise_bits :
    maskOfBits (distinctBits 3 2 1 4) = 0x1E#8 ∧ (0x63#8 &&& 0x1E#8 : Byte) = 0x02#8 := by decide

theorem test_baud_lookup :
    nextField (exec (.baudLookup 9600#24) State.reset) (fun t => t.results) = some [.divisor 26#16] ∧
    nextField (exec (.baudLookup 1#24) State.reset) (fun t => t.results) = some [.unsupported] := by decide

/-- Part 2.5: divisor 26. -/
theorem test_divisor_bytes : divLow 26#16 = 0x1A#8 ∧ divHigh 26#16 = 0x00#8 := by decide

/-! ### The assembler (R121, R122) -/

theorem test_assembler_host_lines :
    (readLine "i2c.start 0x50, 0x10").map AsmLine.words = some [0x10501000#32] ∧
    (readLine "spi.write A, 1, 0x1C, 156").map AsmLine.words = some [0x411C009C#32] ∧
    (readLine "spi.read 1, 0x1C").map AsmLine.words = some [0x511C0000#32] ∧
    (readLine "baud.lookup 9600").map AsmLine.words = some [0xC0002580#32] := by decide

theorem test_assembler_puts :
    (readLine "uart.puts A, 0, 0x4F, 0x4B").map AsmLine.words = some [0x7000004F#32, 0x7000004B#32] ∧
    (readLine "uart.puts A, 0, <0x4F, 0x4B>").map AsmLine.words = some [0x7000004F#32, 0x7000004B#32] ∧
    (readLine "uart.puts A, 0, <>").map AsmLine.words = some [] := by decide

/-- The three texts of an empty byte list (log entry 21); a comma after a byte is none of them. -/
theorem test_assembler_puts_empty :
    (["uart.puts A, 0", "uart.puts A, 0,", "uart.puts A, 0, <>"].map fun t => (readLine t).map AsmLine.words) =
      [some [], some [], some []] ∧
    readLine "uart.puts A, 0, 0x4F," = none := by decide

/-- Angle brackets belong to `uart.puts` alone, and come in pairs. -/
theorem test_assembler_refuses_stray_brackets :
    [readLine "i2c.isdone <>", readLine "baud.lookup <9600>", readLine "uart.puts A, 0, <0x4F"] = [none, none, none] ∧
    readEvent "ev.rxv <0x42>" = none := by decide

theorem test_assembler_events :
    readEvent "ev.rxv 0x42" = some 0x4203#16 ∧ readEvent "ev.stopd" = some 0x0004#16 := by decide

/-! ### Witnesses: every hypothesis of a statement can be met -/

/-- DecodeOfEncodeIsIdentity: both micro-operations the check looks at, at both ends of their range. -/
theorem test_witness_decode_of_encode :
    ∀ i ∈ [Instr.uSelect 0#2, .uSelect 2#2, .uDeselect 0#2, .uDeselect 2#2, .spiRead 3#2 3#2 31#5],
      WellFormed i = true := by decide

/-- EncodeOfDecodedIsTheWord, one word of each port. -/
theorem test_witness_encode_of_decoded :
    decode (.host 0x4C000000#32) = .ok (.spiWrite 3#2 0#2 0#5 0#8) ∧
    decode (.command 0xFF#8) = .ok (.spiFrameWrite 3#2 31#5) ∧
    decode (.address 0x00#8) = .ok (.i2cAddrW 0#7) ∧
    decode (.bus 0x10FE#16) = .ok (.bcStartW 0x7F#7) ∧
    decode (.event 0xFF03#16) = .ok (.evRxv 0xFF#8) ∧
    decode (.micro 0x2200#16) = .ok (.uDeselect 2#2) := ⟨rfl, rfl, rfl, rfl, rfl, rfl⟩

/-- IllegalHostWordRaisesIllegalOp: each reserved OP, and a must-be-zero bit at each end of a format. -/
theorem test_witness_illegal_host_word :
    (∀ w : Word, ∃ s : State, s.halted = false ∧ s.agenda = .host :: [] ∧ s.spiBusy = false ∧ s.hostWords = w :: []) ∧
    hostOpcode 0x00000000#32 = 0x0#4 ∧ hostOpcode 0xD0000000#32 = 0xD#4 ∧ hostOpcode 0xE0000000#32 = 0xE#4 ∧
    hostOpcode 0xF0000000#32 = 0xF#4 ∧
    (∃ m, zeroMask (hostOpcode 0x20000001#32) = some m ∧ 0x20000001#32 &&& m ≠ 0#32) ∧
    (∃ m, zeroMask (hostOpcode 0x18000000#32) = some m ∧ 0x18000000#32 &&& m ≠ 0#32) :=
  ⟨fun w => ⟨scheduled State.reset [w] [.host], rfl, rfl, rfl, rfl⟩, rfl, rfl, rfl, rfl, ⟨_, rfl, by decide⟩,
    ⟨_, rfl, by decide⟩⟩

/-- IllegalWith, as the statements of I2C_START, I2C_ISDONE, I2C_GETBYTE and BAUD_LOOKUP use it. -/
theorem test_witness_illegal_with :
    (hostOpcode 0x10000001#32 = 0x1#4 ∧ 0x10000001#32 &&& 0x0F8000FF#32 ≠ 0#32) ∧
    (hostOpcode 0x28000000#32 = 0x2#4 ∧ 0x28000000#32 &&& 0x0FFFFFFF#32 ≠ 0#32) ∧
    (hostOpcode 0x30000001#32 = 0x3#4 ∧ 0x30000001#32 &&& 0x0FFFFFFF#32 ≠ 0#32) ∧
    (hostOpcode 0xC4002580#32 = 0xC#4 ∧ 0xC4002580#32 &&& 0x0F000000#32 ≠ 0#32) := by decide

/-- ReservedEventRaisesReservedEvent: EV 5 and 7, bits 3 and 7, and DATA with the first and the last EV but 3. -/
theorem test_witness_reserved_event :
    (∀ e : Half, ∃ s : State, s.halted = false ∧ s.agenda = .engine :: [] ∧ s.events = e :: []) ∧
    5 ≤ ((0x0005#16 : Half).extractLsb' 0 3).toNat ∧ 5 ≤ ((0x0007#16 : Half).extractLsb' 0 3).toNat ∧
    (0x0008#16 : Half).extractLsb' 3 5 ≠ 0#5 ∧ (0x0080#16 : Half).extractLsb' 3 5 ≠ 0#5 ∧
    ((0x0100#16 : Half).extractLsb' 8 8 ≠ 0#8 ∧ (0x0100#16 : Half).extractLsb' 0 3 ≠ 3#3) ∧
    ((0xFF04#16 : Half).extractLsb' 8 8 ≠ 0#8 ∧ (0xFF04#16 : Half).extractLsb' 0 3 ≠ 3#3) :=
  ⟨fun e => ⟨{ State.reset with agenda := [.engine], events := [e] }, rfl, rfl, rfl⟩, by decide⟩

/-- StepRunsTheDecodedInstruction, each of its four turns. -/
theorem test_witness_step_runs_host_word :
    ∃ s : State, s.halted = false ∧ s.agenda = .host :: [] ∧ s.spiBusy = false ∧ s.hostWords = 0x10501000#32 :: [] ∧
      decodeHost 0x10501000#32 = .ok (.i2cStart 0x50#7 0x10#8) :=
  ⟨scheduled State.reset [0x10501000#32] [.host], rfl, rfl, rfl, rfl, rfl⟩

theorem test_witness_step_runs_event_and_micro_operation :
    (∃ s : State, s.halted = false ∧ s.agenda = .engine :: [] ∧ s.events = 0x0001#16 :: [] ∧
      decodeEvent 0x0001#16 = .ok .evNack) ∧
    (∃ s : State, s.halted = false ∧ s.agenda = .sequencer :: [] ∧ s.spiSeq = 0x1100#16 :: [] ∧
      decodeMicro 0x1100#16 = .ok (.uSelect 1#2)) ∧
    (∃ s : State, s.halted = false ∧ s.agenda = .bench (.bus 0x5000#16) :: [] ∧
      decode (.bus 0x5000#16) = .ok .bcStop) :=
  ⟨⟨{ State.reset with agenda := [.engine], events := [0x0001#16] }, rfl, rfl, rfl, rfl⟩,
    ⟨{ State.reset with agenda := [.sequencer], spiSeq := [0x1100#16] }, rfl, rfl, rfl, rfl⟩,
    ⟨{ State.reset with agenda := [.bench (.bus 0x5000#16)] }, rfl, rfl, rfl⟩⟩

/-- StepRunsTheDecodedInstruction, the blocked host with micro-operations left and without. -/
theorem test_witness_blocked_host :
    (∃ s : State, s.halted = false ∧ s.agenda = .host :: [] ∧ s.spiBusy = true ∧ s.spiSeq ≠ []) ∧
    ∃ s : State, s.halted = false ∧ s.agenda = .host :: [] ∧ s.spiBusy = true ∧ s.spiSeq = [] :=
  ⟨⟨{ State.reset with agenda := [.host], spiBusy := true, spiSeq := [0x2000#16] }, rfl, rfl, rfl, by decide⟩,
    ⟨{ State.reset with agenda := [.host], spiBusy := true }, rfl, rfl, rfl, rfl⟩⟩

/-- HaltedBlockHasNoStep. -/
theorem test_witness_halted : ({ State.reset with halted := true, faults := [.illegalOp 0#32] } : State).halted = true :=
  rfl

/-- I2cStartStartsOnlyFromIdle. -/
theorem test_witness_i2c_start : State.reset.i2cState = .idle ∧ (engineIn .waitStop).i2cState ≠ .idle := by decide

/-- I2cIsdoneReturnsTheFlag: the flag clear, and set under each setting. -/
theorem test_witness_isdone :
    State.reset.i2cDone = false ∧
    ∀ p : Config.ClearPolicy, ∃ s : State, s.i2cDone = true ∧ s.options.isdoneConsumes = p :=
  ⟨rfl, fun p => ⟨{ afterRead with options := { afterRead.options with isdoneConsumes := p } }, rfl, rfl⟩⟩

/-- I2cGetbyteReturnsTheByteOrADraw: a byte, none, and a nack end. -/
theorem test_witness_getbyte :
    (afterRead.i2cLastByte = some 0x42#8 ∧ afterRead.i2cNackEnd = false) ∧ State.reset.i2cLastByte = none ∧
    ({ afterRead with i2cNackEnd := true } : State).i2cNackEnd = true := ⟨⟨rfl, rfl⟩, rfl, rfl⟩

/-- AckInSendAddrWritesTheRegisterAddress, SendRegAdvancesOnTxeAndOnAck, RxvInReadCapturesTheByte,
StopdInWaitStopCompletes. -/
theorem test_witness_event_rows :
    ((engineIn .sendAddr).i2cState = .sendAddr ∧ (engineIn .sendAddr).i2cReg = some 0x10#8) ∧
    ((engineIn .sendReg).i2cState = .sendReg ∧ (engineIn .sendReg).i2cTarget = some 0x50#7) ∧
    (engineIn .read).i2cState = .read ∧ (engineIn .waitStop).i2cState = .waitStop := by decide

/-- StrayEventInIdleTouchesOnlyTheDoneFlag: each event under each setting. -/
theorem test_witness_stray_event :
    ∀ i ∈ [Instr.evAck, .evTxe, .evRxv 0x55#8, .evStopd], ∀ p : Config.ClearPolicy,
      ∃ s : State, i ∈ [Instr.evAck, .evTxe, .evRxv 0x55#8, .evStopd] ∧ s.i2cState = .idle ∧
        s.options.idleStrayClearsDone = p :=
  fun _ hi p => ⟨{ afterRead with options := { afterRead.options with idleStrayClearsDone := p } }, hi, rfl, rfl⟩

/-- UnlistedEventFaultsOrIsIgnored: each state the list names, under each setting. -/
theorem test_witness_unlisted_event :
    (∀ st : I2cState, ∀ p : Config.UnlistedPolicy, ∃ s : State, s.i2cState = st ∧ s.options.unlistedEvent = p) ∧
    (I2cState.waitStop, Instr.evRxv 0xFF#8, eventWord 3#3 0xFF#8) ∈
      [(I2cState.sendAddr, Instr.evTxe, (0x0002#16 : Half)), (.waitStop, .evRxv 0xFF#8, eventWord 3#3 0xFF#8)] :=
  ⟨fun st p => ⟨{ engineIn st with options := { Config.defaultOptions with unlistedEvent := p } }, rfl, rfl⟩,
    by decide⟩

/-- TransactionReadsOneRegister, by ack and by tx-buffer-empty. -/
theorem test_witness_transaction :
    ∀ e2 ∈ [(0x0000#16 : Half), 0x0002#16], ∃ s : State,
      s.halted = false ∧ s.i2cState = .idle ∧ s.spiBusy = false ∧
      encode (.i2cStart 0x50#7 0x10#8) = .host 0x10501000#32 ∧ (e2 = 0x0000#16 ∨ e2 = 0x0002#16) ∧
      s.agenda = [Turn.host, .engine, .engine, .engine, .engine] ++ [] ∧ s.hostWords = 0x10501000#32 :: [] ∧
      s.events = [(0x0000#16 : Half), e2, eventWord 3#3 0x42#8, 0x0004#16] ++ [] := by
  intro e2 he
  refine ⟨{ scheduled State.reset [0x10501000#32] [.host, .engine, .engine, .engine, .engine] with
    events := [0x0000#16, e2, 0x4203#16, 0x0004#16] }, rfl, rfl, rfl, rfl, by simpa using he, rfl, rfl, rfl⟩

/-- OnlyNackOrStopReturnsTheEngineToIdle, both ways. -/
theorem test_witness_return_to_idle :
    (∃ t, exec .evNack (engineIn .read) = .next t ∧ (engineIn .read).i2cState ≠ .idle ∧ t.i2cState = .idle) ∧
    (∃ t, exec .evStopd (engineIn .waitStop) = .next t ∧ (engineIn .waitStop).i2cState ≠ .idle ∧
      t.i2cState = .idle) := ⟨⟨_, rfl, by decide, rfl⟩, ⟨_, rfl, by decide, rfl⟩⟩

/-- OnlyNackOrStopReturnsTheEngineToIdle for a step: a nack event, and stop-detected in WaitStop put on the port by a bench
turn. -/
theorem test_witness_step_to_idle :
    (∃ t, step { engineIn .read with agenda := [.engine], events := [0x0001#16] } = .next t ∧ t.i2cState = .idle) ∧
    ∃ t, step { engineIn .waitStop with agenda := [.bench (.event 0x0004#16)] } = .next t ∧ t.i2cState = .idle :=
  ⟨⟨_, rfl, rfl⟩, ⟨_, rfl, rfl⟩⟩

/-- CommandByteOpensItsFrame. -/
theorem test_witness_opened_frame : (selected .devC).spiFrame = .opened := rfl

/-- SelectAssertsOneLineOrConflicts. -/
theorem test_witness_select : selectedSet State.reset = [] ∧ selectedSet (selected .devC) ≠ [] := by decide

/-- DeselectClearsOneLine: another line. -/
theorem test_witness_other_line : Device.devA ≠ Device.devC := by decide

/-- XferUnderUnconstrainedDrawsItsReply. -/
theorem test_witness_unconstrained : State.reset.options.bridgeModel = .unconstrained := rfl

/-- SecondExchangeActsOnTheTestDouble, both directions. -/
theorem test_witness_second_exchange :
    ∀ dir : Dir, ∃ s : State, s.options.bridgeModel = .testDouble ∧ selectedSet s = [.devC] ∧
      s.spiFrame = .commanded dir 3#2 31#5 ∧ 383 ≠ cellAddr .devA 0#2 0#5 :=
  fun dir => ⟨withTestDouble { selected .devC with spiFrame := .commanded dir 3#2 31#5 }, rfl, rfl, rfl,
    by decide⟩

/-- FrameRunsToItsEnd, under both reply models and for both directions. -/
theorem test_witness_frame :
    ∀ m : Config.BridgeModel, ∃ s : State, s.halted = false ∧ selectedSet s = [] ∧
      s.spiSeq = frameWords .devB 0x3C#8 0x00#8 ∧ s.agenda = List.replicate 6 .sequencer ++ [] ∧
      s.options.bridgeModel = m ∧ cmdDir 0x3C#8 = .read :=
  fun m => ⟨{ State.reset with
    spiSeq := frameWords .devB 0x3C#8 0x00#8, agenda := List.replicate 6 .sequencer, spiBusy := true
    options := { Config.defaultOptions with bridgeModel := m } }, rfl, rfl, rfl, rfl, rfl, by decide⟩

/-- SpiWriteStartsItsFrame, SpiReadStartsOnTheHardCodedDevice. -/
theorem test_witness_free_bus : State.reset.spiBusy = false := rfl

/-- SpiWriteRunsToItsEnd, under both reply models. -/
theorem test_witness_spi_write_run :
    ∀ m : Config.BridgeModel, ∃ s : State, s.halted = false ∧ s.spiBusy = false ∧ s.spiSeq = [] ∧
      selectedSet s = [] ∧ encode (.spiWrite Device.devC.bits 3#2 31#5 0xFF#8) = .host 0x4B1F00FF#32 ∧
      s.hostWords = 0x4B1F00FF#32 :: [] ∧ s.agenda = turnsOf (spiWriteCalls .devC 3#2 31#5 0xFF#8) ++ [] ∧
      s.options.bridgeModel = m :=
  fun m => ⟨{ scheduled State.reset [0x4B1F00FF#32] (turnsOf (spiWriteCalls .devC 3#2 31#5 0xFF#8)) with
    options := { Config.defaultOptions with bridgeModel := m } },
    rfl, rfl, rfl, rfl, rfl, rfl, (List.append_nil _).symm, rfl⟩

/-- SpiReadRunsToItsEnd, with a cell of the test double written. -/
theorem test_witness_spi_read_run :
    ∃ s : State, s.halted = false ∧ s.spiBusy = false ∧ s.spiSeq = [] ∧ selectedSet s = [] ∧
      encode (.spiRead Device.devB.bits 1#2 0x1C#5) = .host 0x551C0000#32 ∧ s.hostWords = 0x551C0000#32 :: [] ∧
      s.agenda = turnsOf (spiReadCalls 1#2 0x1C#5) ++ [] ∧ s.options.bridgeModel = .testDouble ∧
      Memory.read s.bridgeStore (cellAddr Config.rawReadDevice 1#2 0x1C#5) = some 0x9C#8 :=
  ⟨withTestDouble { scheduled State.reset [0x551C0000#32] (turnsOf (spiReadCalls 1#2 0x1C#5)) with
    bridgeStore := Memory.write [] (cellAddr Config.rawReadDevice 1#2 0x1C#5) 0x9C#8 },
    rfl, rfl, rfl, by decide, rfl, rfl, (List.append_nil _).symm, rfl, Memory.read_write_same _ _ _⟩

/-- WriteThenReadReturnsTheByte. -/
theorem test_witness_round_trip :
    ∃ (s : State) (w1 : Word), s.options.bridgeModel = .testDouble ∧ s.halted = false ∧ s.spiBusy = false ∧
      s.spiSeq = [] ∧ selectedSet s = [] ∧
      encode (.spiWrite Config.rawReadDevice.bits 1#2 0x1C#5 0x9C#8) = .host w1 ∧
      encode (.spiRead Device.devA.bits 1#2 0x1C#5) = .host 0x511C0000#32 ∧
      s.hostWords = w1 :: 0x511C0000#32 :: [] ∧
      s.agenda = turnsOf (spiWriteCalls Config.rawReadDevice 1#2 0x1C#5 0x9C#8) ++
        turnsOf (spiReadCalls 1#2 0x1C#5) ++ [] :=
  ⟨withTestDouble (scheduled State.reset
    [hostWordOf (.spiWrite Config.rawReadDevice.bits 1#2 0x1C#5 0x9C#8), 0x511C0000#32]
    (turnsOf (spiWriteCalls Config.rawReadDevice 1#2 0x1C#5 0x9C#8) ++ turnsOf (spiReadCalls 1#2 0x1C#5))),
    _, rfl, rfl, rfl, rfl, by decide, rfl, rfl, rfl, (List.append_nil _).symm⟩

/-- BridgeOperationsCheckInOrder: busy, device 3, and a device not configured. -/
theorem test_witness_checks :
    (∃ s : State, encode (.spiRead 3#2 0#2 0#5) = .host 0x5C000000#32 ∧ s.faults = [] ∧ s.spiBusy = true) ∧
    (∃ s : State, encode (.uartInit 3#2 9600#24) = .host 0x6C002580#32 ∧ s.faults = [] ∧ s.spiBusy = false) ∧
    (∃ s : State, encode (.uartClrerr Device.devC.bits 3#2) = .host 0xBB000000#32 ∧ s.faults = [] ∧
      s.spiBusy = false ∧ s.devConfigured.get .devC = false) :=
  ⟨⟨{ State.reset with spiBusy := true }, rfl, rfl, rfl⟩, ⟨State.reset, rfl, rfl, rfl⟩,
    ⟨State.reset, rfl, rfl, rfl, rfl⟩⟩

/-- BaudLookupReturnsTheTableEntry and UartInitStartsOrReportsUnsupported: both answers of the table. -/
theorem test_witness_baud_table : baudLookup 9600#24 = some 26#16 ∧ baudLookup 0#24 = none := by decide

/-- UartInitRunsToItsEnd. -/
theorem test_witness_uart_init_run :
    ∃ s : State, s.halted = false ∧ s.spiBusy = false ∧ s.spiSeq = [] ∧ selectedSet s = [] ∧
      baudLookup 9600#24 = some 26#16 ∧ encode (.uartInit Device.devC.bits 9600#24) = .host 0x68002580#32 ∧
      s.hostWords = 0x68002580#32 :: [] ∧ s.agenda = turnsOf (uartInitCalls .devC 26#16) ++ [] ∧
      Device.devA ≠ .devC :=
  ⟨scheduled State.reset [0x68002580#32] (turnsOf (uartInitCalls .devC 26#16)), rfl, rfl, rfl, by decide, by decide,
    rfl, rfl, (List.append_nil _).symm, by decide⟩

/-- UartInitLogsTheElevenSteps: its run hypotheses are those of the witness above, here under TestDouble. -/
theorem test_witness_uart_init_log :
    ∃ s : State, s.halted = false ∧ s.spiBusy = false ∧ s.spiSeq = [] ∧ selectedSet s = [] ∧
      baudLookup 9600#24 = some 26#16 ∧ encode (.uartInit Device.devA.bits 9600#24) = .host 0x60002580#32 ∧
      s.hostWords = 0x60002580#32 :: [] ∧ s.agenda = turnsOf (uartInitCalls .devA 26#16) ++ [] ∧
      s.options.bridgeModel = .testDouble :=
  ⟨withTestDouble (scheduled State.reset [0x60002580#32] (turnsOf (uartInitCalls .devA 26#16))), rfl, rfl, rfl, rfl,
    by decide, rfl, rfl, (List.append_nil _).symm, rfl⟩

/-- The proviso of R249 can be met: lists that write register 5 alone leave every other register to the divisor. The block's
own lists are open, so no state can show it of them. -/
theorem test_witness_divisor_registers :
    6#5 ∉ writtenAfterDivisor (fun _ => [(5#5, 0#8)]) ∧ 5#5 ∈ writtenAfterDivisor (fun _ => [(5#5, 0#8)]) := by decide

/-- An address of another device's cells. -/
theorem test_witness_cell_of_another_device : ∀ (c : Chan) (r : Reg), 128 ≠ cellAddr .devA c r := by decide

/-- PortOperationsStartTheirFrames. -/
theorem test_witness_configured : configured.spiBusy = false ∧ configured.devConfigured.get .devC = true := by decide

/-- OneFramePortOperationsRunToTheirEnd, each of its four operations. -/
theorem test_witness_port_runs :
    ∀ p ∈ [(Instr.uartSendchar Device.devC.bits 3#2 0xFF#8, 0x7B0000FF#32),
      (.uartAvail Device.devC.bits 3#2, 0x9B000000#32), (.uartGeterr Device.devC.bits 3#2, 0xAB000000#32),
      (.uartClrerr Device.devC.bits 3#2, 0xBB000000#32)],
      ∃ s : State, s.halted = false ∧ s.spiBusy = false ∧ s.spiSeq = [] ∧ selectedSet s = [] ∧
        s.devConfigured.get .devC = true ∧ encode p.1 = .host p.2 ∧ s.hostWords = p.2 :: [] ∧
        s.agenda = [Turn.host] ++ List.replicate 6 .sequencer ++ [.host] ++ [] := by
  intro p hp
  refine ⟨scheduled configured [p.2] ([Turn.host] ++ List.replicate 6 .sequencer ++ [.host]), rfl, rfl, rfl,
    rfl, rfl, ?_, rfl, rfl⟩
  fin_cases hp <;> rfl

/-- RecvcharDecidesOnTheLevel, on level 0 and on the levels 1 and 255. -/
theorem test_witness_level :
    ∀ lvl ∈ [0#8, 1#8, 0xFF#8], ∃ s : State, s.halted = false ∧ s.agenda = .host :: .host :: [] ∧ s.spiBusy = true ∧
      s.spiSeq = [] ∧ s.spiRx = some lvl ∧
      s.hostOp = [.testLevel, .frameRead .devA 0#2 Config.regRhr, .finish .received] :=
  fun lvl _ => ⟨{ configured with
    agenda := [.host, .host], spiBusy := true, spiRx := some lvl
    hostOp := [.testLevel, .frameRead .devA 0#2 Config.regRhr, .finish .received] }, rfl, rfl, rfl, rfl, rfl, rfl⟩

/-- RecvcharReturnsTheSentinelOrTheByte, on level 0 and on the levels 1 and 255. The two registers are open, so the
witness gives both cells the same byte. -/
theorem test_witness_recvchar_run :
    ∀ lvl ∈ [0#8, 1#8, 0xFF#8], ∃ s : State, s.options.bridgeModel = .testDouble ∧ s.halted = false ∧
      s.spiBusy = false ∧ s.spiSeq = [] ∧ selectedSet s = [] ∧ s.devConfigured.get .devA = true ∧
      Memory.read s.bridgeStore (cellAddr .devA 0#2 Config.regRxlvl) = some lvl ∧
      Memory.read s.bridgeStore (cellAddr .devA 0#2 Config.regRhr) = some lvl ∧
      encode (.uartRecvchar Device.devA.bits 0#2) = .host 0x80000000#32 ∧ s.hostWords = 0x80000000#32 :: [] ∧
      s.agenda = turnsOf (recvCalls .devA 0#2) ++ [] := by
  intro lvl _
  refine ⟨withTestDouble { scheduled configured [0x80000000#32] (turnsOf (recvCalls .devA 0#2)) with
    bridgeStore := Memory.write (Memory.write [] (cellAddr .devA 0#2 Config.regRxlvl) lvl)
      (cellAddr .devA 0#2 Config.regRhr) lvl },
    rfl, rfl, rfl, rfl, rfl, rfl, ?_, Memory.read_write_same _ _ _, rfl, rfl, (List.append_nil _).symm⟩
  by_cases h : cellAddr .devA 0#2 Config.regRxlvl = cellAddr .devA 0#2 Config.regRhr
  · simp only [withTestDouble, h, Memory.read_write_same]
  · simp only [withTestDouble, Memory.read_write_other _ _ _ _ h, Memory.read_write_same]

/-- FaultsArePrecise: an instruction that records a fault. -/
theorem test_witness_fault :
    ∃ t, exec (.spiWrite 3#2 0#2 0#5 0#8) State.reset = .next t ∧ t.faults ≠ State.reset.faults :=
  ⟨_, rfl, by decide⟩

/-- StepKeepsAtMostOneSelected, StepKeepsTheStoreCanonical, StepKeepsHaltedIffFault: a step that selects a line and a step
that raises a fault. -/
theorem test_witness_invariants :
    (AtMostOneSelected (State.reset.withFetchWord 16 0x1000) ∧
      ∃ t, step (State.reset.withFetchWord 16 0x1000) = .next t ∧ selectedSet t = [.devA]) ∧
    StoreCanonical (State.reset.withFetchWord 16 0x1000) ∧
    (HaltedIffFault (State.reset.withFetchWord 32 0) ∧ FaultsAreSet (State.reset.withFetchWord 32 0) ∧
      ∃ t, step (State.reset.withFetchWord 32 0) = .next t ∧ t.halted = true) := by
  refine ⟨⟨Nat.zero_le 1, _, rfl, rfl⟩, reset_store_wf, ⟨?_, ?_, _, rfl, rfl⟩⟩
  · constructor <;> intro h <;> exact absurd h (by decide)
  · exact List.nodup_nil

/-- StepKeepsTheTransactionHeld: from WaitStop. -/
theorem test_witness_transaction_held :
    TransactionHeld { engineIn .waitStop with agenda := [.engine], events := [0x0004#16] } ∧
    ∃ t, step { engineIn .waitStop with agenda := [.engine], events := [0x0004#16] } = .next t :=
  ⟨⟨fun _ => rfl, fun _ => rfl, fun _ => rfl, fun _ => rfl, fun h => absurd h (by decide)⟩, _, rfl⟩

/-- TransactionHeld with a finished read: the last clause at work. -/
theorem test_witness_transaction_done :
    TransactionHeld afterRead ∧ afterRead.i2cDone = true ∧ afterRead.i2cNackEnd = false :=
  ⟨⟨fun h => absurd rfl h, fun h => absurd rfl h, fun h => absurd rfl h, fun h => absurd h (by decide), fun _ _ => rfl⟩,
    rfl, rfl⟩

/-- DisciplinedRunsNeverConflict and DisciplinedStepAnswersNext: the first step of an operation from reset. -/
theorem test_witness_disciplined :
    Disciplined (scheduled State.reset [0x411C009C#32] [.host]) ∧
    (scheduled State.reset [0x411C009C#32] [.host]).halted = false ∧
    (scheduled State.reset [0x411C009C#32] [.host]).agenda ≠ [] ∧
    ∃ t, step (scheduled State.reset [0x411C009C#32] [.host]) = .next t := by
  refine ⟨⟨by decide, fun _ => ⟨rfl, rfl⟩, .inl ⟨by decide, .inl rfl⟩⟩, rfl, by decide, _, rfl⟩

/-- Disciplined in the middle of a frame, its device selected. -/
theorem test_witness_disciplined_in_a_frame :
    Disciplined { selected .devB with
      spiBusy := true, spiSeq := (frameWords .devB 0xBC#8 0x9C#8).drop 1, hostOp := [.finish .nothing]
      agenda := [.sequencer] } :=
  ⟨by decide, fun h => absurd h (by decide), .inr ⟨.devB, 0xBC#8, 0x9C#8, 1, by decide, by decide, rfl, rfl⟩⟩

/-- LogsOnlyGrow: a step that logs. -/
theorem test_witness_logs :
    ∃ t, step (State.reset.withFetchWord 16 0x5000) = .next t ∧ t.i2cLog = [.stop] := ⟨_, rfl, rfl⟩

/-- EngineAndSpiAreIndependent: one instruction of each side. -/
theorem test_witness_independence :
    (∃ t, exec .evNack State.reset = .next t) ∧ ∃ t, exec (.uSelect 0#2) State.reset = .next t :=
  ⟨⟨_, rfl⟩, ⟨_, rfl⟩⟩

/-- OnlyUartInitTouchesTheChannelTable: an instruction that writes a configured flag. -/
theorem test_witness_channel_table :
    (∃ t, exec (.uartInit 0#2 9600#24) configured = .next t ∧ t.devConfigured ≠ configured.devConfigured) ∧
    ∃ t, step (State.reset.withFetchWord 32 0x20000000) = .next t :=
  ⟨⟨_, rfl, by decide⟩, ⟨_, rfl⟩⟩

/-- OnlyUartInitTouchesTheChannelTable for a step: the record of a divisor, the setting of a flag, its clearing. -/
theorem test_witness_channel_table_steps :
    (∃ t, step { State.reset with agenda := [.host], spiBusy := true, hostOp := [.recordDivisor .devB 3#2 26#16] }
      = .next t ∧ t.chDivisor ≠ State.reset.chDivisor) ∧
    (∃ t, step { State.reset with agenda := [.host], spiBusy := true, hostOp := [.markConfigured .devB] }
      = .next t ∧ t.devConfigured ≠ State.reset.devConfigured) ∧
    ∃ t, step (configured.withFetchWord 32 0x60002580) = .next t ∧ t.devConfigured ≠ configured.devConfigured :=
  ⟨⟨_, rfl, by decide⟩, ⟨_, rfl, by decide⟩, ⟨_, rfl, by decide⟩⟩

/-- EngineAndSpiAreIndependent: a rejected word, and a turn of the engine, the sequencer and the blocked host. -/
theorem test_witness_independent_turns :
    (∃ t, rejectWord (.host 0#32) State.reset = .next t) ∧
    (∃ t, step (State.reset.withFetchWord 16 0x0001) = .next t) ∧
    (∃ t, step (State.reset.withFetchWord 16 0x3003) = .next t) ∧
    ∃ t, step { State.reset with agenda := [.host], spiBusy := true, hostOp := [.finish .nothing] } = .next t :=
  ⟨⟨_, rfl⟩, ⟨_, rfl⟩, ⟨_, rfl⟩, ⟨_, rfl⟩⟩

end Sys2Proof.Tests
end

section
/-! The words of spec/30_encoding.md: host words no operation has (R107, R118, R291), and the command byte's fields
(R110). -/

namespace Sys2Proof

/-! ### Host words no operation has -/

theorem decodeHost_of_zeroMask_none (w : Word) (h : zeroMask (hostOpcode w) = none) :
    decodeHost w = .error .reservedOpcode := by
  simp only [decodeHost, h]

theorem decodeHost_of_mask_bit_set (w m : Word) (hm : zeroMask (hostOpcode w) = some m) (hw : w &&& m ≠ 0#32) :
    decodeHost w = .error .mustBeZero := by
  simp only [decodeHost, hm, if_neg hw]

/-- The two ways a host word fails decoding (R118). -/
theorem decodeHost_eq_error (w : Word)
    (h : hostOpcode w = 0x0#4 ∨ hostOpcode w = 0xD#4 ∨ hostOpcode w = 0xE#4 ∨ hostOpcode w = 0xF#4 ∨
      ∃ m, zeroMask (hostOpcode w) = some m ∧ w &&& m ≠ 0#32) :
    ∃ e, decodeHost w = .error e := by
  rcases h with hop | hop | hop | hop | ⟨m, hm, hw⟩
  iterate 4 exact ⟨_, decodeHost_of_zeroMask_none w (by rw [hop]; rfl)⟩
  exact ⟨_, decodeHost_of_mask_bit_set w m hm hw⟩

/-! ### The command byte -/

@[simp] theorem dir_bit_ofBit (b : BitVec 1) : (Dir.ofBit b).bit = b := by revert b; decide

theorem cmdByte_bit7 (dir : Dir) (c : Chan) (r : Reg) : (cmdByte dir c r).extractLsb' 7 1 = dir.bit := by
  have h : (cmdDir (cmdByte dir c r)).bit = dir.bit := congrArg Dir.bit (cmdDir_cmdByte dir c r)
  simpa only [cmdDir, dir_bit_ofBit] using h

/-- A byte's value is made of the three fields of R110. -/
theorem toNat_eq_cmd_fields (b : Byte) :
    b.toNat = 128 * (cmdDir b).bit.toNat + 32 * (cmdChan b).toNat + (cmdReg b).toNat := by
  have hb := b.isLt
  simp only [cmdDir, dir_bit_ofBit, cmdChan, cmdReg, BitVec.extractLsb'_toNat, Nat.shiftRight_eq_div_pow]
  omega

theorem cmdByte_toNat (dir : Dir) (c : Chan) (r : Reg) :
    (cmdByte dir c r).toNat = 128 * dir.bit.toNat + 32 * c.toNat + r.toNat := by
  rw [toNat_eq_cmd_fields, cmdDir_cmdByte, cmdChan_cmdByte, cmdReg_cmdByte]

/-- Every byte is the command byte of its own fields (R110). -/
@[simp] theorem cmdByte_of_fields (b : Byte) : cmdByte (cmdDir b) (cmdChan b) (cmdReg b) = b :=
  BitVec.eq_of_toNat_eq ((cmdByte_toNat _ _ _).trans (toNat_eq_cmd_fields b).symm)

end Sys2Proof

namespace Sys2Proof.Machine

/-- A word that is taken and does not decode is rejected on the state without it. -/
theorem step_rejects {s t : State} {p : PortWord} {e : DecodeError} (hf : fetch s = .word p t)
    (hd : decode p = .error e) : step s = rejectWord p t := by
  simp only [step, hf, hd]

/-- Settles O4: the word fails decoding (R118), so the step rejects it, which raises ILLEGAL_OP and nothing else. -/
theorem illegalHostWordRaisesIllegalOp : Obligations.IllegalHostWordRaisesIllegalOp := by
  intro s rest w ws hh ha hb hw hillegal
  obtain ⟨e, he⟩ := decodeHost_eq_error w hillegal
  exact step_rejects (fetch_host_issues s rest w ws hh ha hb hw) he

/-- Settles O6: the fields are those the decoder reads back, and they determine the byte's value. -/
theorem commandByteHoldsItsFields : Obligations.CommandByteHoldsItsFields :=
  ⟨fun dir c r => ⟨cmdByte_bit7 dir c r, cmdChan_cmdByte dir c r, cmdReg_cmdByte dir c r, cmdByte_toNat dir c r⟩,
    fun b => ⟨cmdDir b, cmdChan b, cmdReg b, cmdByte_of_fields b⟩⟩

end Sys2Proof.Machine
end

section
/-! The I2C master engine (spec/40_i2c_master.md): event words (R114, R152), the host operations (R141 to R143) and the
engine's step on each event (R144 to R151). -/

namespace Sys2Proof

/-! ### Event words (R114) -/

/-- The low byte of an event word is made of EV and the bits above it. -/
theorem event_low_byte_toNat (e : Half) :
    (e.extractLsb' 0 8).toNat = 8 * (e.extractLsb' 3 5).toNat + (e.extractLsb' 0 3).toNat := by
  simp only [BitVec.extractLsb'_toNat, Nat.shiftRight_eq_div_pow]
  omega

/-- A low byte of 5 or more holds a reserved EV or a bit above EV. -/
theorem decodeEvent_of_low_byte_ge_five (e : Half) (h : 5 ≤ (e.extractLsb' 0 8).toNat) :
    decodeEvent e = .error .reservedEvent := by
  have hne : ∀ k : Byte, k.toNat < 5 → e.extractLsb' 0 8 ≠ k := fun k hk heq => by
    rw [heq] at h
    omega
  simp [decodeEvent, hne]

theorem decodeEvent_of_stray_data (e : Half) (hdata : e.extractLsb' 8 8 ≠ 0#8) (hlow : e.extractLsb' 0 8 ≠ 3#8) :
    decodeEvent e = .error .reservedEvent := by
  simp only [decodeEvent, if_neg hlow, if_neg hdata]

/-- The three conditions of R114 on a reserved event word. -/
theorem decodeEvent_eq_error (e : Half)
    (h : 5 ≤ (e.extractLsb' 0 3).toNat ∨ e.extractLsb' 3 5 ≠ 0#5 ∨
      (e.extractLsb' 8 8 ≠ 0#8 ∧ e.extractLsb' 0 3 ≠ 3#3)) :
    decodeEvent e = .error .reservedEvent := by
  have hlow := event_low_byte_toNat e
  rcases h with hev | hpad | ⟨hdata, hev⟩
  · exact decodeEvent_of_low_byte_ge_five e (by omega)
  · have hpos : 0 < (e.extractLsb' 3 5).toNat := Nat.pos_of_ne_zero fun h0 => hpad (BitVec.eq_of_toNat_eq h0)
    exact decodeEvent_of_low_byte_ge_five e (by omega)
  · refine decodeEvent_of_stray_data e hdata fun h3 => hev (BitVec.eq_of_toNat_eq ?_)
    have hlt := (e.extractLsb' 0 3).isLt
    rw [h3] at hlow
    simp only [BitVec.reduceToNat] at hlow ⊢
    omega

@[simp] theorem decodeEvent_rxv (b : Byte) : decodeEvent (eventWord 3#3 b) = .ok (.evRxv b) := by
  revert b; decide

end Sys2Proof

namespace Sys2Proof.Machine

/-- Settles O5: the word fails decoding (R114), so the step rejects it, which raises I2C_RESERVED_EVENT and nothing
else. -/
theorem reservedEventRaisesReservedEvent : Obligations.ReservedEventRaisesReservedEvent := by
  intro s rest e es hh ha he hreserved
  exact step_rejects (fetch_engine s rest e es hh ha he) (decodeEvent_eq_error e hreserved)

/-! ### The host operations (R141 to R143) -/

/-- A host word outside its operation's must-be-zero mask is rejected with ILLEGAL_OP (R107). -/
theorem illegalWith_of_zeroMask {op : BitVec 4} {m : Word} (h : zeroMask op = some m) : IllegalWith op m := by
  rintro s w rfl hw
  rw [decodeHost_of_mask_bit_set w m h hw]
  exact ⟨rfl, rfl⟩

/-- Settles O11: the word's fields are those of format I, and the operation's only condition is the engine's state. -/
theorem i2cStartStartsOnlyFromIdle : Obligations.I2cStartStartsOnlyFromIdle := by
  refine ⟨illegalWith_of_zeroMask rfl, fun s t r => ⟨rfl, fun hidle => ?_, fun hbusy => ?_⟩⟩
  · simp only [exec, execI2cStart, if_pos hidle]
    rfl
  · simp only [exec, execI2cStart, if_neg hbusy]
    rfl

/-- Settles O12: the flag decides whether the policy matters, and the policy what becomes of a set flag. -/
theorem i2cIsdoneReturnsTheFlag : Obligations.I2cIsdoneReturnsTheFlag := by
  refine ⟨illegalWith_of_zeroMask rfl, rfl, fun s => ⟨fun hd => ?_, fun hd hp => ?_, fun hd hp => ?_, fun hd hp => ?_⟩⟩
  all_goals simp [exec, execI2cIsdone, giveResult, drawn, doneAfterPoll, pollDraws, *]

theorem execI2cGetbyte_of_some {s : State} {b : Byte} (h : meaningfulByte s = some b) :
    execI2cGetbyte s = .next (giveResult (.byte b) s) := by
  simp only [execI2cGetbyte, h]

theorem execI2cGetbyte_of_none {s : State} (h : meaningfulByte s = none) :
    execI2cGetbyte s = .next (giveResult (.byte (Config.freeByte s.draws)) (drawn 1 s)) := by
  simp only [execI2cGetbyte, h]

theorem meaningfulByte_eq_none_iff (s : State) :
    meaningfulByte s = none ↔ s.i2cLastByte = none ∨ s.i2cNackEnd = true := by
  cases h : s.i2cNackEnd <;> simp [meaningfulByte, h]

/-- Settles O13: the captured byte is returned where it means something, and a free value where it does not. -/
theorem i2cGetbyteReturnsTheByteOrADraw : Obligations.I2cGetbyteReturnsTheByteOrADraw := by
  refine ⟨illegalWith_of_zeroMask rfl, rfl, fun s => ⟨fun b hb hn => ?_, fun h => ?_⟩⟩
  · exact execI2cGetbyte_of_some (by simp [meaningfulByte, hn, hb])
  · exact execI2cGetbyte_of_none ((meaningfulByte_eq_none_iff s).2 h)

/-! ### The transitions the table lists (R145 to R149) -/

theorem writeRegisterAddress_of_some {s : State} {r : Byte} (h : s.i2cReg = some r) :
    writeRegisterAddress s = { s with i2cLog := s.i2cLog ++ [.write r], i2cState := .sendReg } := by
  simp [writeRegisterAddress, i2cIssue, regOrFree, h]

theorem repeatStart_of_some {s : State} {t : Target} (h : s.i2cTarget = some t) :
    repeatStart s = { s with i2cLog := s.i2cLog ++ [.rstartR (addrByte t 1#1)], i2cState := .read } := by
  simp [repeatStart, i2cIssue, targetOrFree, h]

/-- Settles O14: an ack in SendAddr writes the register-address byte that is held. -/
theorem ackInSendAddrWritesTheRegisterAddress : Obligations.AckInSendAddrWritesTheRegisterAddress := by
  refine ⟨rfl, fun s r hs hr => ?_⟩
  rw [← writeRegisterAddress_of_some hr]
  simp only [exec, execEvAck, hs]

/-- Settles O15: both events issue the repeated start to the target that is held. -/
theorem sendRegAdvancesOnTxeAndOnAck : Obligations.SendRegAdvancesOnTxeAndOnAck := by
  refine ⟨rfl, rfl, fun s t hs ht => ?_⟩
  rw [← repeatStart_of_some ht]
  constructor
  · simp only [exec, execEvTxe, hs]
  · simp only [exec, execEvAck, hs]

/-- Settles O16: rx-data-valid in Read captures its byte. -/
theorem rxvInReadCapturesTheByte : Obligations.RxvInReadCapturesTheByte := by
  refine fun s b => ⟨decodeEvent_rxv b, fun hs => ?_⟩
  simp only [exec, execEvRxv, hs]
  rfl

/-- Settles O17: stop-detected in WaitStop completes the transaction. -/
theorem stopdInWaitStopCompletes : Obligations.StopdInWaitStopCompletes := by
  refine ⟨rfl, fun s hs => ?_⟩
  simp only [exec, execEvStopd, hs]
  rfl

/-- Settles O18: a nack's meaning does not look at the engine's state. -/
theorem nackEndsTheTransactionInAnyState : Obligations.NackEndsTheTransactionInAnyState :=
  ⟨rfl, fun _ => rfl⟩

/-! ### Stray events in Idle (R150) -/

theorem doneAfterStray_either (done d : Bool) : doneAfterStray .either done d = (done && d) := by
  cases d <;> simp [doneAfterStray]

theorem strayEvent_of_no {s : State} (h : s.options.idleStrayClearsDone = .no) : strayEvent s = s := by
  simp [strayEvent, drawn, strayDraws, doneAfterStray, h]

theorem strayEvent_of_yes {s : State} (h : s.options.idleStrayClearsDone = .yes) :
    strayEvent s = { s with i2cDone := false } := by
  simp [strayEvent, drawn, strayDraws, doneAfterStray, h]

theorem strayEvent_of_either {s : State} (h : s.options.idleStrayClearsDone = .either) :
    strayEvent s = { s with i2cDone := s.i2cDone && Config.freeBit s.draws, draws := s.draws + 1 } := by
  simp [strayEvent, drawn, strayDraws, doneAfterStray_either, h]

/-- Settles O19: each of the four events is a stray event in Idle, and the policy decides what becomes of the flag. -/
theorem strayEventInIdleTouchesOnlyTheDoneFlag : Obligations.StrayEventInIdleTouchesOnlyTheDoneFlag := by
  intro s b i hi hs
  have hexec : exec i s = .next (strayEvent s) := by
    simp only [List.mem_cons, List.not_mem_nil, or_false] at hi
    rcases hi with rfl | rfl | rfl | rfl
    · simp only [exec, execEvAck, hs]
    · simp only [exec, execEvTxe, hs]
    · simp only [exec, execEvRxv, hs]
    · simp only [exec, execEvStopd, hs]
  rw [hexec]
  exact ⟨fun h => congrArg _ (strayEvent_of_no h), fun h => congrArg _ (strayEvent_of_yes h),
    fun h => congrArg _ (strayEvent_of_either h)⟩

/-! ### Events the table does not list (R151) -/

theorem unlistedEvent_of_fault {s : State} (e : Half) (h : s.options.unlistedEvent = .fault) :
    unlistedEvent e s = raiseFault (.i2cUnlistedEvent s.i2cState e) s := by
  simp only [unlistedEvent, h]

theorem unlistedEvent_of_ignore {s : State} (e : Half) (h : s.options.unlistedEvent = .ignore) :
    unlistedEvent e s = s := by
  simp only [unlistedEvent, h]

theorem exec_evAck_unlisted {s : State} (h : s.i2cState = .read ∨ s.i2cState = .waitStop) :
    exec .evAck s = .next (unlistedEvent 0x0000#16 s) := by
  rcases h with h | h <;> simp only [exec, execEvAck, h] <;> rfl

theorem exec_evTxe_unlisted {s : State}
    (h : s.i2cState = .sendAddr ∨ s.i2cState = .read ∨ s.i2cState = .waitStop) :
    exec .evTxe s = .next (unlistedEvent 0x0002#16 s) := by
  rcases h with h | h | h <;> simp only [exec, execEvTxe, h] <;> rfl

theorem exec_evRxv_unlisted {s : State} (b : Byte)
    (h : s.i2cState = .sendAddr ∨ s.i2cState = .sendReg ∨ s.i2cState = .waitStop) :
    exec (.evRxv b) s = .next (unlistedEvent (eventWord 3#3 b) s) := by
  rcases h with h | h | h <;> simp only [exec, execEvRxv, h]

theorem exec_evStopd_unlisted {s : State}
    (h : s.i2cState = .sendAddr ∨ s.i2cState = .sendReg ∨ s.i2cState = .read) :
    exec .evStopd s = .next (unlistedEvent 0x0004#16 s) := by
  rcases h with h | h | h <;> simp only [exec, execEvStopd, h] <;> rfl

/-- Settles O20: each of the eleven pairs is an unlisted event, and the policy decides between the fault and nothing. -/
theorem unlistedEventFaultsOrIsIgnored : Obligations.UnlistedEventFaultsOrIsIgnored := by
  rintro s b st i e hmem rfl
  have hexec : exec i s = .next (unlistedEvent e s) := by
    simp only [List.mem_cons, Prod.mk.injEq, List.not_mem_nil, or_false] at hmem
    rcases hmem with ⟨hs, rfl, rfl⟩ | ⟨hs, rfl, rfl⟩ | ⟨hs, rfl, rfl⟩ | ⟨hs, rfl, rfl⟩ | ⟨hs, rfl, rfl⟩ |
      ⟨hs, rfl, rfl⟩ | ⟨hs, rfl, rfl⟩ | ⟨hs, rfl, rfl⟩ | ⟨hs, rfl, rfl⟩ | ⟨hs, rfl, rfl⟩ | ⟨hs, rfl, rfl⟩
    · exact exec_evTxe_unlisted (.inl hs)
    · exact exec_evRxv_unlisted b (.inl hs)
    · exact exec_evStopd_unlisted (.inl hs)
    · exact exec_evRxv_unlisted b (.inr (.inl hs))
    · exact exec_evStopd_unlisted (.inr (.inl hs))
    · exact exec_evAck_unlisted (.inl hs)
    · exact exec_evTxe_unlisted (.inr (.inl hs))
    · exact exec_evStopd_unlisted (.inr (.inr hs))
    · exact exec_evAck_unlisted (.inr hs)
    · exact exec_evTxe_unlisted (.inr (.inr hs))
    · exact exec_evRxv_unlisted b (.inr (.inr hs))
  rw [hexec]
  exact ⟨fun h => congrArg _ (unlistedEvent_of_fault e h), fun h => congrArg _ (unlistedEvent_of_ignore e h)⟩

end Sys2Proof.Machine
end

section
/-! The family of spec/41_spi_register_access.md: what the sequencer decodes from the words of a frame. -/

namespace Sys2Proof.Machine

/-- R182 and R183 share one shape: only the two bytes sent differ. -/
theorem map_decodeMicro_frameWords (d : Device) (b1 b2 : Byte) :
    (frameWords d b1 b2).map decodeMicro =
      [.ok (.uSelect d.bits), .ok (.uDelay .tCss), .ok (.uXfer b1), .ok (.uXfer b2), .ok (.uDelay .tCsh),
        .ok (.uDeselect d.bits)] := by
  simp only [frameWords, List.map_cons, List.map_nil, decodeMicro_selectWord, decodeMicro_delayWord,
    decodeMicro_xferWord, decodeMicro_deselectWord]

/-- Settles O31: a write frame and a read frame are each a frame of a command byte and a second byte. -/
theorem framesAreSixMicroOperations : Obligations.FramesAreSixMicroOperations :=
  fun d c r v dummy => ⟨map_decodeMicro_frameWords d (cmdByte .write c r) v,
    map_decodeMicro_frameWords d (cmdByte .read c r) dummy⟩

end Sys2Proof.Machine
end

section
/-! The UART channel configurator (spec/43_uart_configurator.md): BAUD_LOOKUP's word (R105), its two answers (R231, R232). -/

namespace Sys2Proof

/-- A format B word that leaves DEV at 0 is its opcode above the rate (R105). -/
theorem formatB_device_zero (op : BitVec 4) (rate : Rate) :
    formatB op 0#2 rate = place 32 op 28 ||| rate.setWidth 32 := by
  simp [formatB, place]

end Sys2Proof

namespace Sys2Proof.Machine

theorem execBaudLookup_of_some {rate : Rate} {div : Half} (h : baudLookup rate = some div) (s : State) :
    execBaudLookup rate s = .next (giveResult (.divisor div) s) := by
  simp only [execBaudLookup, h]

theorem execBaudLookup_of_none {rate : Rate} (h : baudLookup rate = none) (s : State) :
    execBaudLookup rate s = .next (giveResult .unsupported s) := by
  simp only [execBaudLookup, h]

/-- Settles O39: the word is format B without DEV, and the table's answer is the only thing the operation gives back. -/
theorem baudLookupReturnsTheTableEntry : Obligations.BaudLookupReturnsTheTableEntry := by
  refine ⟨illegalWith_of_zeroMask rfl, fun rate => ?_, fun s rate div h => execBaudLookup_of_some h s,
    fun s rate h => execBaudLookup_of_none h s, rfl, rfl, rfl⟩
  exact congrArg PortWord.host (formatB_device_zero 0xC#4 rate)

end Sys2Proof.Machine
end

section
/-! The family of spec/60_exceptions.md: the order in which a bridge operation is checked (R191, R260, R303). -/

namespace Sys2Proof

theorem hostWordOf_of_encode {i : Instr} {w : Word} (h : encode i = .host w) : hostWordOf i = w := by
  simp only [hostWordOf, h]

end Sys2Proof

namespace Sys2Proof.Machine

/-! ### What each check raises -/

theorem checkBridge_busy {s : State} (w : Word) (d : BitVec 2) (body : Device → State) (hb : s.spiBusy = true) :
    checkBridge w d s body = raiseFault (.spiReentry w) s := by
  simp only [checkBridge, if_pos hb]

theorem checkBridge_device_three {s : State} (w : Word) (body : Device → State) (hb : s.spiBusy = false) :
    checkBridge w 3#2 s body = raiseFault (.invalidDevice w) s := by
  simp only [checkBridge, hb, (device_ofBits_none 3#2).2 rfl, Bool.false_eq_true, if_false]

/-- The port's own check comes after the two of every bridge operation, which a free bus and a legal device pass. -/
theorem checkPort_unconfigured {s : State} (w : Word) {dev : Device} (body : Device → State) (hb : s.spiBusy = false)
    (hc : s.devConfigured.get dev = false) :
    checkPort w dev.bits s body = raiseFault (.channelNotConfigured w) s := by
  simp only [checkPort, checkBridge_pass w dev s _ hb, hc, Bool.false_eq_true, if_false]

/-! ### Which operations make which checks -/

/-- A port operation is its checks on its own word and device, then some effect. -/
theorem exec_eq_checkPort {d : BitVec 2} {c : Chan} {v : Byte} {i : Instr} {w : Word} (s : State)
    (hi : i ∈ [Instr.uartSendchar d c v, .uartRecvchar d c, .uartAvail d c, .uartGeterr d c, .uartClrerr d c])
    (hw : encode i = .host w) : ∃ body, exec i s = .next (checkPort w d s body) := by
  obtain rfl := hostWordOf_of_encode hw
  simp only [List.mem_cons, List.not_mem_nil, or_false] at hi
  rcases hi with rfl | rfl | rfl | rfl | rfl <;> exact ⟨_, rfl⟩

/-- Every bridge operation is the checks of R303 on its own word and device, then some effect or a further check. -/
theorem exec_eq_checkBridge {d : BitVec 2} {c : Chan} {r : Reg} {v : Byte} {rate : Rate} {i : Instr} {w : Word}
    (s : State)
    (hi : i ∈ [Instr.spiWrite d c r v, .spiRead d c r, .uartInit d rate, .uartSendchar d c v, .uartRecvchar d c,
      .uartAvail d c, .uartGeterr d c, .uartClrerr d c])
    (hw : encode i = .host w) : ∃ body, exec i s = .next (checkBridge w d s body) := by
  rw [List.mem_cons, List.mem_cons, List.mem_cons] at hi
  rcases hi with rfl | rfl | rfl | hport
  case inr.inr.inr =>
    obtain ⟨body, hexec⟩ := exec_eq_checkPort s hport hw
    exact ⟨_, hexec⟩
  all_goals
    obtain rfl := hostWordOf_of_encode hw
    exact ⟨_, rfl⟩

/-- Settles O38: each operation is its checks on its own word, and in a state without faults the check that fails leaves
exactly its record. -/
theorem bridgeOperationsCheckInOrder : Obligations.BridgeOperationsCheckInOrder := by
  intro s d c r v rate i w hi hw hfaults
  obtain ⟨body, hexec⟩ := exec_eq_checkBridge s hi hw
  refine ⟨fun hbusy => ?_, fun hfree hd => ?_, fun dev hfree hd hconf hport => ?_⟩
  · rw [hexec, checkBridge_busy w d body hbusy, raiseFault_fresh _ s hfaults]
  · rw [hexec, hd, checkBridge_device_three w body hfree, raiseFault_fresh _ s hfaults]
  · obtain ⟨portBody, hexecPort⟩ := exec_eq_checkPort s hport hw
    rw [hexecPort, hd, checkPort_unconfigured w portBody hfree hconf, raiseFault_fresh _ s hfaults]

end Sys2Proof.Machine
end

section
/-! The family of spec/70_reset_and_hazards.md: the table of reset values (R330) and the delays (R345). -/

namespace Sys2Proof.Machine

/-! ### Tables that hold one value throughout -/

@[simp] theorem perDevice_get_const {α : Type} (v : α) (d : Device) : PerDevice.get ⟨v, v, v⟩ d = v := by
  cases d <;> rfl

@[simp] theorem perChannel_get_const {α : Type} (v : α) (c : Chan) : PerChannel.get ⟨v, v, v, v⟩ c = v := by
  simp only [PerChannel.get, ite_self]

@[simp] theorem memory_read_nil (a : Nat) : Memory.read [] a = none := rfl

/-! ### The reset values (R330) -/

theorem reset_chDivisor_get (d : Device) (c : Chan) : (State.reset.chDivisor.get d).get c = none :=
  (congrArg (PerChannel.get · c) (perDevice_get_const _ d)).trans (perChannel_get_const none c)

/-- Settles O10: the scalar rows of the table are fields of the reset state, the indexed rows hold one value at every
index. -/
theorem resetLeavesTheSpecValues : Obligations.ResetLeavesTheSpecValues := by
  unfold Obligations.ResetLeavesTheSpecValues
  exact ⟨rfl, rfl, rfl, rfl, rfl, rfl, rfl, rfl, perDevice_get_const false, rfl, rfl, rfl,
    perDevice_get_const false, reset_chDivisor_get, rfl, rfl, fun d c r => memory_read_nil (cellAddr d c r), rfl⟩

/-! ### Delays (R345) -/

theorem exec_uDelay (id : DelayId) (s : State) : exec (.uDelay id) s = .next (logDelay id s) := rfl

/-- Settles O28: the four words are what the sequencer is given for the four delays, and the step is the log's entry. -/
theorem delayOnlyLogs : Obligations.DelayOnlyLogs :=
  ⟨decodeMicro_delayWord .tCss, decodeMicro_delayWord .tCsh, decodeMicro_delayWord .tResetSettle,
    decodeMicro_delayWord .tPllLock, fun s id => exec_uDelay id s⟩

end Sys2Proof.Machine
end

section
/-! The words of spec/30_encoding.md read back: a word is made of its fields (R101 to R116), so decoding and encoding are
inverse to each other (R118). -/

namespace Sys2Proof

/-! ### Fields put in a word and read from it -/

theorem extract_place_same {w n : Nat} (x : BitVec n) (lo : Nat) (h : lo + n ≤ w) :
    (place w x lo).extractLsb' lo n = x := by
  ext i hi
  have hlo : lo + i < w := by omega
  simp [place, hlo, BitVec.getLsbD_eq_getElem hi]

theorem extract_place_other {w n m : Nat} (x : BitVec n) (lo lo' : Nat) (h : lo + n ≤ lo' ∨ lo' + m ≤ lo) :
    (place w x lo).extractLsb' lo' m = 0#m := by
  ext i hi
  rcases h with h | h
  · have hge : n ≤ lo' + i - lo := by omega
    simp [place, BitVec.getLsbD_of_ge x _ hge]
  · have hlt : lo' + i < lo := by omega
    simp [place, hlt]

section
variable (op : BitVec 4) (d : BitVec 2) (c : Chan) (r : Reg) (v : Byte) (t : Target) (rate : Rate)

@[simp] theorem hostOpcode_formatN : hostOpcode (formatN op) = op :=
  extract_place_same op 28 (by decide)

theorem formatI_fields : hostOpcode (formatI op t v) = op ∧ hostTarget (formatI op t v) = t ∧
    hostIreg (formatI op t v) = v := by
  simp [hostOpcode, hostTarget, hostIreg, formatI, BitVec.extractLsb'_or, extract_place_same, extract_place_other]

theorem formatS_fields : hostOpcode (formatS op d c r v) = op ∧ hostDev (formatS op d c r v) = d ∧
    hostChan (formatS op d c r v) = c ∧ hostReg (formatS op d c r v) = r ∧ hostData (formatS op d c r v) = v := by
  simp [hostOpcode, hostDev, hostChan, hostReg, hostData, formatS, BitVec.extractLsb'_or, extract_place_same,
    extract_place_other]

theorem formatB_fields : hostOpcode (formatB op d rate) = op ∧ hostDev (formatB op d rate) = d ∧
    hostRate (formatB op d rate) = rate := by
  simp [hostOpcode, hostDev, hostRate, formatB, BitVec.extractLsb'_or, extract_place_same, extract_place_other]

end

/-! ### Decoding an encoded instruction -/

/-- An encoded host operation has the fixed bits of its row of the opcode table; where these cover the must-be-zero bits of
its opcode, its word decodes to what its fields say. -/
theorem decode_of_row {i : Instr} {w z : Word} {op : BitVec 4} {m v : Nat} (hrow : Laws.EncodingRow.Statement i)
    (hw : encode i = .host w) (ht : Laws.EncodingRow.tableRow i = (m, v)) (hop : hostOpcode w = op)
    (hz : zeroMask op = some z) (hsub : BitVec.ofNat 32 m &&& z = z) (hv : BitVec.ofNat 32 v &&& z = 0#32)
    (hi : hostFields w = i) : decode (encode i) = .ok i := by
  simp only [Laws.EncodingRow.Statement, hw, ht] at hrow
  have hmask : w &&& z = 0#32 := by rw [← hsub, ← BitVec.and_assoc, hrow, hv]
  simp only [hw, decode, decodeHost, hop, hz, hmask, if_true, hi]

/-- Settles O1: each host operation by its row of the opcode table and the fields of its format, every other instruction by
the few bits its operands have. -/
theorem decodeOfEncodeIsIdentity : Obligations.DecodeOfEncodeIsIdentity := by
  intro i hwf
  cases i with
  | i2cStart t r =>
    exact decode_of_row (Laws.EncodingRow.i2cStart t r) rfl rfl (formatI_fields _ _ _).1 rfl (by decide) (by decide)
      (by simp [hostFields, formatI_fields])
  | i2cIsdone => rfl
  | i2cGetbyte => rfl
  | spiWrite d c r v =>
    exact decode_of_row (Laws.EncodingRow.spiWrite d c r v) rfl rfl (formatS_fields _ _ _ _ _).1 rfl (by decide)
      (by decide) (by simp [hostFields, formatS_fields])
  | spiRead d c r =>
    exact decode_of_row (Laws.EncodingRow.spiRead d c r) rfl rfl (formatS_fields _ _ _ _ _).1 rfl (by decide)
      (by decide) (by simp [hostFields, formatS_fields])
  | uartInit d rate =>
    exact decode_of_row (Laws.EncodingRow.uartInit d rate) rfl rfl (formatB_fields _ _ _).1 rfl (by decide)
      (by decide) (by simp [hostFields, formatB_fields])
  | uartSendchar d c b =>
    exact decode_of_row (Laws.EncodingRow.uartSendchar d c b) rfl rfl (formatS_fields _ _ _ _ _).1 rfl (by decide)
      (by decide) (by simp [hostFields, formatS_fields])
  | uartRecvchar d c =>
    exact decode_of_row (Laws.EncodingRow.uartRecvchar d c) rfl rfl (formatS_fields _ _ _ _ _).1 rfl (by decide)
      (by decide) (by simp [hostFields, formatS_fields])
  | uartAvail d c =>
    exact decode_of_row (Laws.EncodingRow.uartAvail d c) rfl rfl (formatS_fields _ _ _ _ _).1 rfl (by decide)
      (by decide) (by simp [hostFields, formatS_fields])
  | uartGeterr d c =>
    exact decode_of_row (Laws.EncodingRow.uartGeterr d c) rfl rfl (formatS_fields _ _ _ _ _).1 rfl (by decide)
      (by decide) (by simp [hostFields, formatS_fields])
  | uartClrerr d c =>
    exact decode_of_row (Laws.EncodingRow.uartClrerr d c) rfl rfl (formatS_fields _ _ _ _ _).1 rfl (by decide)
      (by decide) (by simp [hostFields, formatS_fields])
  | baudLookup rate =>
    exact decode_of_row (Laws.EncodingRow.baudLookup rate) rfl rfl (formatB_fields _ _ _).1 rfl (by decide)
      (by decide) (by simp [hostFields, formatB_fields])
  | spiFrameWrite c r => simp [encode, decode, decodeCommand]
  | spiFrameRead c r => simp [encode, decode, decodeCommand]
  | i2cAddrW t => revert t; decide
  | i2cAddrR t => revert t; decide
  | bcStartW t => revert t; decide
  | bcWrite b => revert b; decide
  | bcRstartR t => revert t; decide
  | bcNackStop => rfl
  | bcStop => rfl
  | evAck => rfl
  | evNack => rfl
  | evTxe => rfl
  | evRxv b => exact decodeEvent_rxv b
  | evStopd => rfl
  | uSelect d => revert d; decide
  | uDeselect d => revert d; decide
  | uDelay id => exact decodeMicro_delayWord id
  | uXfer b => exact decodeMicro_xferWord b

/-! ### A word is made of its fields -/

theorem host_word_formatN (w : Word) : formatN (hostOpcode w) ||| (w &&& 0x0FFFFFFF#32) = w := by
  simp only [formatN, hostOpcode, place]
  ext i hi
  interval_cases i <;> simp

theorem host_word_formatI (w : Word) :
    formatI (hostOpcode w) (hostTarget w) (hostIreg w) ||| (w &&& 0x0F8000FF#32) = w := by
  simp only [formatI, hostOpcode, hostTarget, hostIreg, place]
  ext i hi
  interval_cases i <;> simp

theorem host_word_formatS (w : Word) :
    formatS (hostOpcode w) (hostDev w) (hostChan w) (hostReg w) (hostData w) ||| (w &&& 0x00E0FF00#32) = w := by
  simp only [formatS, hostOpcode, hostDev, hostChan, hostReg, hostData, place]
  ext i hi
  interval_cases i <;> simp

theorem host_word_formatB (w : Word) :
    formatB (hostOpcode w) (hostDev w) (hostRate w) ||| (w &&& 0x03000000#32) = w := by
  simp only [formatB, hostOpcode, hostDev, hostRate, place]
  ext i hi
  interval_cases i <;> simp

/-- The must-be-zero bits of a word that decodes, opcode by opcode. -/
theorem decodeHost_eq_ok {w : Word} {i : Instr} (h : decodeHost w = .ok i) :
    ∃ m, zeroMask (hostOpcode w) = some m ∧ w &&& m = 0#32 ∧ i = hostFields w := by
  unfold decodeHost at h
  split at h
  · cases h
  · next m hm =>
    split at h
    · next hw => cases h; exact ⟨m, hm, hw, rfl⟩
    · cases h

/-- What a mask clears, each mask it covers clears. -/
theorem and_eq_zero_of_cover {w m z : Word} (h : w &&& m = 0#32) (hsub : m &&& z = z) : w &&& z = 0#32 := by
  rw [← hsub, ← BitVec.and_assoc, h, BitVec.zero_and]

theorem hostReg_eq_zero {w : Word} (h : w &&& 0x001F0000#32 = 0#32) : hostReg w = 0#5 := by
  have hf : (w &&& 0x001F0000#32).extractLsb' 16 5 = hostReg w := by
    rw [BitVec.extractLsb'_and]
    exact BitVec.and_allOnes
  rw [← hf, h]
  rfl

theorem hostData_eq_zero {w : Word} (h : w &&& 0x000000FF#32 = 0#32) : hostData w = 0#8 := by
  have hf : (w &&& 0x000000FF#32).extractLsb' 0 8 = hostData w := by
    rw [BitVec.extractLsb'_and]
    exact BitVec.and_allOnes
  rw [← hf, h]
  rfl

theorem hostDev_eq_zero {w : Word} (h : w &&& 0x0C000000#32 = 0#32) : hostDev w = 0#2 := by
  have hf : (w &&& 0x0C000000#32).extractLsb' 26 2 = hostDev w := by
    rw [BitVec.extractLsb'_and]
    exact BitVec.and_allOnes
  rw [← hf, h]
  rfl

/-! Each format with the fields an operation leaves out, which its must-be-zero mask covers. -/

section
variable {w : Word} {op : BitVec 4} (hop : hostOpcode w = op)
include hop

theorem formatN_of_mask (h : w &&& 0x0FFFFFFF#32 = 0#32) : formatN op = w := by
  simpa only [h, BitVec.or_zero, hop] using host_word_formatN w

theorem formatI_of_mask (h : w &&& 0x0F8000FF#32 = 0#32) : formatI op (hostTarget w) (hostIreg w) = w := by
  simpa only [h, BitVec.or_zero, hop] using host_word_formatI w

theorem formatS_of_mask (h : w &&& 0x00E0FF00#32 = 0#32) :
    formatS op (hostDev w) (hostChan w) (hostReg w) (hostData w) = w := by
  simpa only [h, BitVec.or_zero, hop] using host_word_formatS w

theorem formatS_of_mask_data (h : w &&& 0x00E0FFFF#32 = 0#32) :
    formatS op (hostDev w) (hostChan w) (hostReg w) 0#8 = w := by
  rw [← hostData_eq_zero (and_eq_zero_of_cover h rfl)]
  exact formatS_of_mask hop (and_eq_zero_of_cover h rfl)

theorem formatS_of_mask_reg (h : w &&& 0x00FFFF00#32 = 0#32) :
    formatS op (hostDev w) (hostChan w) 0#5 (hostData w) = w := by
  rw [← hostReg_eq_zero (and_eq_zero_of_cover h rfl)]
  exact formatS_of_mask hop (and_eq_zero_of_cover h rfl)

theorem formatS_of_mask_reg_data (h : w &&& 0x00FFFFFF#32 = 0#32) :
    formatS op (hostDev w) (hostChan w) 0#5 0#8 = w := by
  rw [← hostData_eq_zero (and_eq_zero_of_cover h rfl)]
  exact formatS_of_mask_reg hop (and_eq_zero_of_cover h rfl)

theorem formatB_of_mask (h : w &&& 0x03000000#32 = 0#32) : formatB op (hostDev w) (hostRate w) = w := by
  simpa only [h, BitVec.or_zero, hop] using host_word_formatB w

theorem formatB_of_mask_dev (h : w &&& 0x0F000000#32 = 0#32) : formatB op 0#2 (hostRate w) = w := by
  rw [← hostDev_eq_zero (and_eq_zero_of_cover h rfl)]
  exact formatB_of_mask hop (and_eq_zero_of_cover h rfl)

end

/-- The twelve opcodes of R106; every other one is reserved (R107). -/
theorem opcode_cases (op : BitVec 4) : op = 0x1#4 ∨ op = 0x2#4 ∨ op = 0x3#4 ∨ op = 0x4#4 ∨ op = 0x5#4 ∨ op = 0x6#4 ∨
    op = 0x7#4 ∨ op = 0x8#4 ∨ op = 0x9#4 ∨ op = 0xA#4 ∨ op = 0xB#4 ∨ op = 0xC#4 ∨ zeroMask op = none := by
  revert op; decide

/-- Opcode by opcode, an operation's mask makes its word the one its format builds of its fields. -/
theorem encode_hostFields {w m : Word} (hm : zeroMask (hostOpcode w) = some m) (hw : w &&& m = 0#32) :
    WellFormed (hostFields w) = true ∧ encode (hostFields w) = .host w := by
  rcases opcode_cases (hostOpcode w) with h1 | h2 | h3 | h4 | h5 | h6 | h7 | h8 | h9 | hA | hB | hC | hnone
  · rw [h1] at hm
    cases hm
    have hf : hostFields w = .i2cStart (hostTarget w) (hostIreg w) := by simp [hostFields, h1]
    exact hf ▸ ⟨rfl, congrArg PortWord.host (formatI_of_mask h1 hw)⟩
  · rw [h2] at hm
    cases hm
    have hf : hostFields w = .i2cIsdone := by simp [hostFields, h2]
    exact hf ▸ ⟨rfl, congrArg PortWord.host (formatN_of_mask h2 hw)⟩
  · rw [h3] at hm
    cases hm
    have hf : hostFields w = .i2cGetbyte := by simp [hostFields, h3]
    exact hf ▸ ⟨rfl, congrArg PortWord.host (formatN_of_mask h3 hw)⟩
  · rw [h4] at hm
    cases hm
    have hf : hostFields w = .spiWrite (hostDev w) (hostChan w) (hostReg w) (hostData w) := by simp [hostFields, h4]
    exact hf ▸ ⟨rfl, congrArg PortWord.host (formatS_of_mask h4 hw)⟩
  · rw [h5] at hm
    cases hm
    have hf : hostFields w = .spiRead (hostDev w) (hostChan w) (hostReg w) := by simp [hostFields, h5]
    exact hf ▸ ⟨rfl, congrArg PortWord.host (formatS_of_mask_data h5 hw)⟩
  · rw [h6] at hm
    cases hm
    have hf : hostFields w = .uartInit (hostDev w) (hostRate w) := by simp [hostFields, h6]
    exact hf ▸ ⟨rfl, congrArg PortWord.host (formatB_of_mask h6 hw)⟩
  · rw [h7] at hm
    cases hm
    have hf : hostFields w = .uartSendchar (hostDev w) (hostChan w) (hostData w) := by simp [hostFields, h7]
    exact hf ▸ ⟨rfl, congrArg PortWord.host (formatS_of_mask_reg h7 hw)⟩
  · rw [h8] at hm
    cases hm
    have hf : hostFields w = .uartRecvchar (hostDev w) (hostChan w) := by simp [hostFields, h8]
    exact hf ▸ ⟨rfl, congrArg PortWord.host (formatS_of_mask_reg_data h8 hw)⟩
  · rw [h9] at hm
    cases hm
    have hf : hostFields w = .uartAvail (hostDev w) (hostChan w) := by simp [hostFields, h9]
    exact hf ▸ ⟨rfl, congrArg PortWord.host (formatS_of_mask_reg_data h9 hw)⟩
  · rw [hA] at hm
    cases hm
    have hf : hostFields w = .uartGeterr (hostDev w) (hostChan w) := by simp [hostFields, hA]
    exact hf ▸ ⟨rfl, congrArg PortWord.host (formatS_of_mask_reg_data hA hw)⟩
  · rw [hB] at hm
    cases hm
    have hf : hostFields w = .uartClrerr (hostDev w) (hostChan w) := by simp [hostFields, hB]
    exact hf ▸ ⟨rfl, congrArg PortWord.host (formatS_of_mask_reg_data hB hw)⟩
  · rw [hC] at hm
    cases hm
    have hf : hostFields w = .baudLookup (hostRate w) := by simp [hostFields, hC]
    exact hf ▸ ⟨rfl, congrArg PortWord.host (formatB_of_mask_dev hC hw)⟩
  · cases hnone.symm.trans hm

/-! ### Short words -/

@[simp] theorem addrByte_of_fields (b : Byte) : addrByte (b.extractLsb' 1 7) (b.extractLsb' 0 1) = b := by
  revert b; decide

@[simp] theorem delayId_bits_ofBits (b : BitVec 2) : (DelayId.ofBits b).bits = b := by revert b; decide

/-- A 16-bit word is its two bytes. -/
theorem half_of_bytes (w : Half) : place 16 (w.extractLsb' 8 8) 8 ||| place 16 (w.extractLsb' 0 8) 0 = w := by
  simp only [place]
  ext i hi
  interval_cases i <;> simp

/-- A micro-operation word is its UOP with the two bits below, its UDEV and its ARG. -/
theorem half_of_micro_fields (w : Half) :
    place 16 (w.extractLsb' 10 6) 10 ||| place 16 (w.extractLsb' 8 2) 8 ||| place 16 (w.extractLsb' 0 8) 0 = w := by
  simp only [place]
  ext i hi
  interval_cases i <;> simp

theorem encode_of_decodeCommand (b : Byte) :
    WellFormed (decodeCommand b) = true ∧ encode (decodeCommand b) = .command b := by revert b; decide

theorem encode_of_decodeAddress (b : Byte) :
    WellFormed (decodeAddress b) = true ∧ encode (decodeAddress b) = .address b := by revert b; decide

/-- A field of the low byte of a 16-bit word is a field of the word. -/
theorem extract_low_byte (w : Half) (lo n : Nat) (h : lo + n ≤ 8) :
    (w.extractLsb' 0 8).extractLsb' lo n = w.extractLsb' lo n := by
  ext i hi
  have hlt : lo + i < 8 := by omega
  simp [hlt]

theorem addrByte_of_word (w : Half) {rw : BitVec 1} (h : w.extractLsb' 0 1 = rw) :
    addrByte (w.extractLsb' 1 7) rw = w.extractLsb' 0 8 := by
  rw [← addrByte_of_fields (w.extractLsb' 0 8), extract_low_byte w 1 7 (by decide),
    extract_low_byte w 0 1 (by decide), h]

theorem busWord_of_fields {w : Half} {bc : BitVec 4} {b : Byte} (hbc : w.extractLsb' 8 8 = place 8 bc 4)
    (hb : b = w.extractLsb' 0 8) : busWord bc b = w := by
  have hplace : place 16 bc 12 = place 16 (place 8 bc 4) 8 := by
    clear * -
    revert bc; decide
  rw [busWord, hplace, hb, ← hbc, half_of_bytes]

theorem eventWord_of_fields {w : Half} {ev : BitVec 3} {b : Byte} (hev : w.extractLsb' 0 8 = place 8 ev 0)
    (hb : b = w.extractLsb' 8 8) : eventWord ev b = w := by
  have hplace : place 16 ev 0 = place 16 (place 8 ev 0) 0 := by
    clear * -
    revert ev; decide
  rw [eventWord, hplace, hb, ← hev, half_of_bytes]

theorem microWord_of_fields {w : Half} {uop : BitVec 4} {d : BitVec 2} {b : Byte}
    (huop : w.extractLsb' 10 6 = place 6 uop 2) (hd : d = w.extractLsb' 8 2) (hb : b = w.extractLsb' 0 8) :
    microWord uop d b = w := by
  have hplace : place 16 uop 12 = place 16 (place 6 uop 2) 10 := by
    clear * -
    revert uop; decide
  rw [microWord, hplace, hd, hb, ← huop, half_of_micro_fields]

theorem encode_of_decodeBus {w : Half} {i : Instr} (h : decodeBus w = .ok i) :
    WellFormed i = true ∧ encode i = .bus w := by
  simp only [decodeBus] at h
  split_ifs at h with h1 hrw h2 h3 hrw h4 hb h5 hb <;> cases h
  · exact ⟨rfl, congrArg _ (busWord_of_fields h1 (addrByte_of_word w hrw))⟩
  · exact ⟨rfl, congrArg _ (busWord_of_fields h2 rfl)⟩
  · exact ⟨rfl, congrArg _ (busWord_of_fields h3 (addrByte_of_word w hrw))⟩
  · exact ⟨rfl, congrArg _ (busWord_of_fields h4 hb.symm)⟩
  · exact ⟨rfl, congrArg _ (busWord_of_fields h5 hb.symm)⟩

theorem encode_of_decodeEvent {w : Half} {i : Instr} (h : decodeEvent w = .ok i) :
    WellFormed i = true ∧ encode i = .event w := by
  simp only [decodeEvent] at h
  split_ifs at h with h3 hdata h0 h1 h2 h4 <;> cases h
  · exact ⟨rfl, congrArg _ (eventWord_of_fields h3 rfl)⟩
  · exact ⟨rfl, congrArg _ (eventWord_of_fields h0 hdata.symm)⟩
  · exact ⟨rfl, congrArg _ (eventWord_of_fields h1 hdata.symm)⟩
  · exact ⟨rfl, congrArg _ (eventWord_of_fields h2 hdata.symm)⟩
  · exact ⟨rfl, congrArg _ (eventWord_of_fields h4 hdata.symm)⟩

/-- ARG of a delay is its two-bit id under six zero bits. -/
theorem delay_arg_of_word {w : Half} (h : w.extractLsb' 2 6 = 0#6) :
    place 8 (DelayId.ofBits (w.extractLsb' 0 2)).bits 0 = w.extractLsb' 0 8 := by
  have key : ∀ b : Byte, b.extractLsb' 2 6 = 0#6 → place 8 (DelayId.ofBits (b.extractLsb' 0 2)).bits 0 = b := by decide
  have hb := key (w.extractLsb' 0 8)
  rw [extract_low_byte w 2 6 (by decide), extract_low_byte w 0 2 (by decide)] at hb
  exact hb h

theorem encode_of_decodeMicro {w : Half} {i : Instr} (h : decodeMicro w = .ok i) :
    WellFormed i = true ∧ encode i = .micro w := by
  simp only [decodeMicro] at h
  split_ifs at h with h1 ha hd h2 ha hd h3 hd h4 hd <;> cases h
  · exact ⟨by simpa [WellFormed] using hd, congrArg _ (microWord_of_fields h1 rfl ha.symm)⟩
  · exact ⟨by simpa [WellFormed] using hd, congrArg _ (microWord_of_fields h2 rfl ha.symm)⟩
  · exact ⟨rfl, congrArg _ (microWord_of_fields h3 hd.1.symm (delay_arg_of_word hd.2))⟩
  · exact ⟨rfl, congrArg _ (microWord_of_fields h4 hd.symm rfl)⟩

/-- Settles O2: port by port, the word is put together again from the fields the decoder reads and the bits it checks. -/
theorem encodeOfDecodedIsTheWord : Obligations.EncodeOfDecodedIsTheWord := by
  intro p i h
  cases p with
  | host w =>
    obtain ⟨m, hm, hw, rfl⟩ := decodeHost_eq_ok h
    exact encode_hostFields hm hw
  | command b => cases h; exact encode_of_decodeCommand b
  | address b => cases h; exact encode_of_decodeAddress b
  | bus w => exact encode_of_decodeBus h
  | event w => exact encode_of_decodeEvent h
  | micro w => exact encode_of_decodeMicro h

/-! ### Words written out (R112, R118) -/

/-- Settles O3: each word is one closed decoding. -/
theorem specWordsDecode : Obligations.SpecWordsDecode :=
  ⟨rfl, rfl, rfl, rfl, rfl, rfl, rfl, rfl, rfl, rfl⟩

theorem addrByte_toNat (t : Target) (rw : BitVec 1) : (addrByte t rw).toNat = 2 * t.toNat + rw.toNat := by
  revert t rw; decide

/-- Settles O7: the two fields lie apart, so each is read back whole. -/
theorem addressByteHoldsItsFields : Obligations.AddressByteHoldsItsFields := by
  refine fun t rw => ⟨?_, ?_, addrByte_toNat t rw⟩ <;>
    simp [addrByte, BitVec.extractLsb'_or, extract_place_same, extract_place_other]

end Sys2Proof
end


section
/-! What an instruction can do, said once for each side of the block (R155), and what every step therefore keeps
(spec/42_cs_arbiter.md, spec/10_state.md, spec/60_exceptions.md). -/

namespace Sys2Proof

/-- The instructions of the I2C side: its host operations, address bytes, bus commands and events (R155). -/
def Instr.isI2c : Instr → Bool
  | .i2cStart _ _ | .i2cIsdone | .i2cGetbyte | .i2cAddrW _ | .i2cAddrR _ | .bcStartW _ | .bcWrite _ | .bcRstartR _
  | .bcNackStop | .bcStop | .evAck | .evNack | .evTxe | .evRxv _ | .evStopd => true
  | _ => false

theorem isI2c_of_decodeEvent {e : Half} {i : Instr} (h : decodeEvent e = .ok i) : i.isI2c = true := by
  simp only [decodeEvent] at h
  split_ifs at h <;> cases h <;> rfl

theorem not_isI2c_of_decodeMicro {u : Half} {i : Instr} (h : decodeMicro u = .ok i) : i.isI2c = false := by
  simp only [decodeMicro] at h
  split_ifs at h <;> cases h <;> rfl

end Sys2Proof

namespace Sys2Proof.Machine

/-! ### The I2C side -/

/-- Everything an instruction of the I2C side can do (R141 to R152, R113). A flag it writes is set only if it was. -/
inductive EngineEffect (s : State) : Instr → State → Prop
  | start (t : Target) (r : Byte) (h : s.i2cState = .idle) : EngineEffect s (.i2cStart t r) { s with
      i2cDone := false
      i2cNackEnd := false
      i2cTarget := some t
      i2cReg := some r
      i2cLastByte := none
      i2cLog := s.i2cLog ++ [.startW (addrByte t 0#1)]
      i2cState := .sendAddr
      results := s.results ++ [.nothing] }
  | startIgnored (t : Target) (r : Byte) : EngineEffect s (.i2cStart t r) (giveResult .nothing s)
  | poll (done : Bool) (n : Nat) (h : done = true → s.i2cDone = true) :
      EngineEffect s .i2cIsdone (giveResult (.bit s.i2cDone) (drawn n { s with i2cDone := done }))
  | getbyte (b : Byte) (n : Nat) : EngineEffect s .i2cGetbyte (giveResult (.byte b) (drawn n s))
  | issue (i : Instr) (c : BusCmd) : EngineEffect s i (i2cIssue c s)
  | stray (i : Instr) (done : Bool) (n : Nat) (h : done = true → s.i2cDone = true) :
      EngineEffect s i (drawn n { s with i2cDone := done })
  | unlisted (i : Instr) (e : Half) : EngineEffect s i (raiseFault (.i2cUnlistedEvent s.i2cState e) s)
  | ignored (i : Instr) : EngineEffect s i s
  | ack (h : s.i2cState = .sendAddr) : EngineEffect s .evAck (writeRegisterAddress s)
  | again (i : Instr) (h : s.i2cState = .sendReg) : EngineEffect s i (repeatStart s)
  | capture (b : Byte) (h : s.i2cState = .read) : EngineEffect s (.evRxv b) (captureByte b s)
  | complete (h : s.i2cState = .waitStop) : EngineEffect s .evStopd (completeTransaction s)
  | nack : EngineEffect s .evNack { s with
      i2cDone := true, i2cNackEnd := true, i2cLog := s.i2cLog ++ [.stop], i2cState := .idle }

theorem doneAfterPoll_imp (p : Config.ClearPolicy) (done d : Bool) (h : doneAfterPoll p done d = true) : done = true := by
  cases done
  · exact h
  · rfl

theorem doneAfterStray_imp (p : Config.ClearPolicy) (done d : Bool) (h : doneAfterStray p done d = true) :
    done = true := by
  cases p <;> cases d <;> simp_all [doneAfterStray]

theorem strayEvent_effect (i : Instr) (s : State) : EngineEffect s i (strayEvent s) :=
  .stray i _ _ (doneAfterStray_imp _ _ _)

theorem unlistedEvent_effect (i : Instr) (e : Half) (s : State) : EngineEffect s i (unlistedEvent e s) := by
  unfold unlistedEvent
  split
  · exact .unlisted i e
  · exact .ignored i

/-- Every instruction of the I2C side gives a next state, by one of these effects. -/
theorem exec_isI2c {i : Instr} (hi : i.isI2c = true) (s : State) : ∃ t, exec i s = .next t ∧ EngineEffect s i t := by
  cases i with
  | i2cStart t r =>
    by_cases hs : s.i2cState = .idle
    · exact ⟨_, by simp only [exec, execI2cStart, if_pos hs]; rfl, .start t r hs⟩
    · exact ⟨_, by simp only [exec, execI2cStart, if_neg hs], .startIgnored t r⟩
  | i2cIsdone => exact ⟨_, rfl, .poll _ _ (doneAfterPoll_imp _ _ _)⟩
  | i2cGetbyte =>
    cases h : meaningfulByte s with
    | some b => exact ⟨_, execI2cGetbyte_of_some h, .getbyte b 0⟩
    | none => exact ⟨_, execI2cGetbyte_of_none h, .getbyte _ 1⟩
  | i2cAddrW t => exact ⟨_, rfl, .issue _ _⟩
  | i2cAddrR t => exact ⟨_, rfl, .issue _ _⟩
  | bcStartW t => exact ⟨_, rfl, .issue _ _⟩
  | bcWrite b => exact ⟨_, rfl, .issue _ _⟩
  | bcRstartR t => exact ⟨_, rfl, .issue _ _⟩
  | bcNackStop => exact ⟨_, rfl, .issue _ _⟩
  | bcStop => exact ⟨_, rfl, .issue _ _⟩
  | evNack => exact ⟨_, rfl, .nack⟩
  | evAck =>
    refine ⟨_, rfl, ?_⟩
    split
    · exact strayEvent_effect _ s
    · exact .ack ‹_›
    · exact .again _ ‹_›
    · exact unlistedEvent_effect _ _ s
    · exact unlistedEvent_effect _ _ s
  | evTxe =>
    refine ⟨_, rfl, ?_⟩
    split
    · exact strayEvent_effect _ s
    · exact unlistedEvent_effect _ _ s
    · exact .again _ ‹_›
    · exact unlistedEvent_effect _ _ s
    · exact unlistedEvent_effect _ _ s
  | evRxv b =>
    refine ⟨_, rfl, ?_⟩
    split
    · exact strayEvent_effect _ s
    · exact unlistedEvent_effect _ _ s
    · exact unlistedEvent_effect _ _ s
    · exact .capture b ‹_›
    · exact unlistedEvent_effect _ _ s
  | evStopd =>
    refine ⟨_, rfl, ?_⟩
    split
    · exact strayEvent_effect _ s
    · exact unlistedEvent_effect _ _ s
    · exact unlistedEvent_effect _ _ s
    · exact unlistedEvent_effect _ _ s
    · exact .complete ‹_›
  | _ => cases hi

/-! ### The SPI side -/

/-- Everything an instruction of the SPI side can do: a check that fails (R303), a result at once, a bridge operation that
starts with its first frame (R181, R233), and the micro-operations (R180, R211, R212, R345). -/
inductive BusEffect (s : State) : Instr → State → Prop
  | reentry (i : Instr) (w : Word) (h : s.spiBusy = true) : BusEffect s i (raiseFault (.spiReentry w) s)
  | invalidDevice (i : Instr) (w : Word) : BusEffect s i (raiseFault (.invalidDevice w) s)
  | notConfigured (i : Instr) (w : Word) : BusEffect s i (raiseFault (.channelNotConfigured w) s)
  | conflict (d : Device) (h : selectedSet s ≠ []) :
      BusEffect s (.uSelect d.bits) (raiseFault (.csConflict d (selectedSet s)) s)
  | result (i : Instr) (r : HostResult) : BusEffect s i (giveResult r s)
  | start (i : Instr) (d : Device) (b1 b2 : Byte) (calls : List HostCall) (h : s.spiBusy = false) :
      BusEffect s i { s with spiBusy := true, spiSeq := frameWords d b1 b2, hostOp := calls }
  | init (dev : Device) (rate : Rate) (d : Device) (b1 b2 : Byte) (calls : List HostCall) (h : s.spiBusy = false) :
      BusEffect s (.uartInit dev.bits rate) { s with
        spiBusy := true, spiSeq := frameWords d b1 b2, hostOp := calls
        devConfigured := s.devConfigured.set dev false }
  | select (d : Device) (h : selectedSet s = []) : BusEffect s (.uSelect d.bits) { s with
      csSel := s.csSel.set d true, spiLog := s.spiLog ++ [.select d], spiFrame := .opened }
  | deselect (d : Device) : BusEffect s (.uDeselect d.bits) (deselectLine d s)
  | delay (id : DelayId) : BusEffect s (.uDelay id) (logDelay id s)
  | exchange (i : Instr) (b : Byte) (hi : ∀ w, encode i ≠ .host w) : BusEffect s i (exchangeByte b s)

/-- The checks of a bridge operation leave it to start, or raise one of their two faults. -/
theorem checkBridge_effect {i : Instr} {w : Word} {d : BitVec 2} {s : State} {body : Device → State}
    (h : ∀ dev : Device, s.spiBusy = false → dev.bits = d → BusEffect s i (body dev)) :
    BusEffect s i (checkBridge w d s body) := by
  rcases checkBridge_cases w d s body with ⟨hb, heq⟩ | ⟨-, -, heq⟩ | ⟨dev, hb, hd, heq⟩ <;> rw [heq]
  · exact .reentry i w hb
  · exact .invalidDevice i w
  · exact h dev hb (device_bits_of_ofBits d dev hd)

/-- The checks of a port operation leave it to start, or raise one of their three faults. -/
theorem checkPort_effect {i : Instr} {w : Word} {d : BitVec 2} {s : State} {body : Device → State}
    (h : ∀ dev : Device, s.spiBusy = false → BusEffect s i (body dev)) : BusEffect s i (checkPort w d s body) := by
  rcases checkPort_cases w d s body with ⟨hb, heq⟩ | ⟨-, -, heq⟩ | ⟨dev, -, -, -, heq⟩ | ⟨dev, hb, -, -, heq⟩ <;>
    rw [heq]
  · exact .reentry i w hb
  · exact .invalidDevice i w
  · exact .notConfigured i w
  · exact h dev hb

theorem selectLine_effect (d : Device) (s : State) : BusEffect s (.uSelect d.bits) (selectLine d s) := by
  by_cases hs : selectedSet s = []
  · exact selectLine_free d s hs ▸ .select d hs
  · exact selectLine_conflict d s hs ▸ .conflict d hs

/-- Every instruction of the SPI side that gives a next state does so by one of these effects. -/
theorem exec_not_isI2c {i : Instr} (hi : i.isI2c = false) {s t : State} (h : exec i s = .next t) : BusEffect s i t := by
  cases i with
  | spiWrite d c r v =>
    cases h
    exact checkBridge_effect fun dev hb _ => .start _ _ _ _ _ hb
  | spiRead d c r =>
    cases h
    exact checkBridge_effect fun dev hb _ => .start _ _ _ _ _ hb
  | uartInit d rate =>
    cases h
    refine checkBridge_effect fun dev hb hd => ?_
    subst hd
    cases baudLookup rate with
    | none => exact .result _ _
    | some div => exact .init dev rate _ _ _ _ hb
  | uartSendchar d c b =>
    cases h
    exact checkPort_effect fun dev hb => .start _ _ _ _ _ hb
  | uartRecvchar d c =>
    cases h
    exact checkPort_effect fun dev hb => .start _ _ _ _ _ hb
  | uartAvail d c =>
    cases h
    exact checkPort_effect fun dev hb => .start _ _ _ _ _ hb
  | uartGeterr d c =>
    cases h
    exact checkPort_effect fun dev hb => .start _ _ _ _ _ hb
  | uartClrerr d c =>
    cases h
    exact checkPort_effect fun dev hb => .start _ _ _ _ _ hb
  | baudLookup rate =>
    cases h
    exact .result _ _
  | spiFrameWrite c r =>
    cases h
    exact .exchange _ _ fun w hw => by cases hw
  | spiFrameRead c r =>
    cases h
    exact .exchange _ _ fun w hw => by cases hw
  | uSelect d =>
    simp only [exec, execUSelect] at h
    split at h
    · next dev hd =>
      cases h
      exact device_bits_of_ofBits d dev hd ▸ selectLine_effect dev s
    · cases h
  | uDeselect d =>
    simp only [exec, execUDeselect] at h
    split at h
    · next dev hd =>
      cases h
      exact device_bits_of_ofBits d dev hd ▸ .deselect dev
    · cases h
  | uDelay id =>
    cases h
    exact .delay id
  | uXfer b =>
    cases h
    exact .exchange _ _ fun w hw => by cases hw
  | _ => cases hi

/-- Everything an instruction that gives a next state can do. -/
theorem exec_effect {i : Instr} {s t : State} (h : exec i s = .next t) :
    (i.isI2c = true ∧ EngineEffect s i t) ∨ (i.isI2c = false ∧ BusEffect s i t) := by
  cases hi : i.isI2c
  · exact .inr ⟨rfl, exec_not_isI2c hi h⟩
  · obtain ⟨u, hu, heff⟩ := exec_isI2c hi s
    cases hu.symm.trans h
    exact .inl ⟨rfl, heff⟩

end Sys2Proof.Machine
end


section
/-! What every step keeps, and what it may change (spec/42_cs_arbiter.md R213; spec/10_state.md R33 to R38, R43 to R48;
spec/60_exceptions.md R300, R302; spec/40_i2c_master.md R153, R155). -/

namespace Sys2Proof.Machine

/-! ### One induction step for all invariants -/

/-- A property that does not look at what is still to come and that every instruction, every fault and every call of a
procedure keeps, every step keeps. -/
theorem step_keeps {P : State → Prop}
    (hfetch : ∀ (s : State) (ag : List Turn) (ws : List Word) (es us : List Half),
      P s → P { s with agenda := ag, hostWords := ws, events := es, spiSeq := us })
    (hexec : ∀ (i : Instr) (s t : State), exec i s = .next t → P s → P t)
    (hfault : ∀ (f : FaultRecord) (s : State), P s → P (raiseFault f s))
    (hcalls : ∀ (calls : List HostCall) (s : State), P s → P (runCalls calls s))
    {s t : State} (hs : step s = .next t) (h : P s) : P t := by
  have htakes : ∀ {rest p u}, TakesWord s rest p u → P u := by
    intro rest p u hu
    cases hu with
    | host w ws => exact hfetch s rest ws s.events s.spiSeq h
    | event e es => exact hfetch s rest s.hostWords es s.spiSeq h
    | micro u us => exact hfetch s rest s.hostWords s.events us h
    | bench p => exact hfetch s rest s.hostWords s.events s.spiSeq h
  have hpass : ∀ rest, P { s with agenda := rest } := fun rest => hfetch s rest s.hostWords s.events s.spiSeq h
  obtain ⟨-, turn, rest, -, hcase⟩ := step_cases s t hs
  rcases hcase with ⟨p, u, i, hu, -, hi⟩ | ⟨p, u, e, hu, -, hr⟩ | ⟨-, -, -, rfl⟩ | rfl
  · exact hexec i u t hi (htakes hu)
  · rcases rejectWord_cases p u t hr with rfl | ⟨f, rfl⟩
    · exact htakes hu
    · exact hfault f u (htakes hu)
  · exact hcalls _ _ (hpass rest)
  · exact hpass rest

/-! ### The chip-select lines (R213) -/

theorem engineEffect_csSel {i : Instr} {s t : State} (h : EngineEffect s i t) : t.csSel = s.csSel := by
  cases h <;> rfl

theorem runCalls_csSel (calls : List HostCall) (s : State) : (runCalls calls s).csSel = s.csSel := by
  rcases runCalls_cases calls s with ⟨-, h⟩ | ⟨_, _, h, -⟩ | ⟨_, _, h⟩ | ⟨_, _, h⟩ | ⟨_, h⟩ | ⟨_, h⟩ <;>
    simp [h]

theorem atMostOneSelected_congr {s t : State} (h : t.csSel = s.csSel) : AtMostOneSelected t ↔ AtMostOneSelected s := by
  rw [AtMostOneSelected, AtMostOneSelected, selectedSet_congr s t h]

/-- A select adds a line to none, a deselect adds none, and nothing else drives the lines. -/
theorem exec_keeps_atMostOneSelected {i : Instr} {s t : State} (h : exec i s = .next t) (hs : AtMostOneSelected s) :
    AtMostOneSelected t := by
  rcases exec_effect h with ⟨-, heff⟩ | ⟨-, heff⟩
  · exact (atMostOneSelected_congr (engineEffect_csSel heff)).2 hs
  · cases heff with
    | select d hnone => exact (congrArg List.length (linesSelected_set_true s.csSel d hnone)).le
    | deselect d => exact (linesSelected_deselect_length s.csSel d).trans hs
    | _ => exact hs

/-- Settles O51: the lines change by select and deselect alone, and a select finds nothing selected. -/
theorem stepKeepsAtMostOneSelected : Obligations.StepKeepsAtMostOneSelected := fun _ _ h hs =>
  step_keeps (fun _ _ _ _ _ => id) (fun _ _ _ => exec_keeps_atMostOneSelected) (fun _ _ => id)
    (fun calls s => (atMostOneSelected_congr (runCalls_csSel calls s)).2) hs h

/-! ### The test double's store (R53) -/

theorem engineEffect_bridgeStore {i : Instr} {s t : State} (h : EngineEffect s i t) :
    t.bridgeStore = s.bridgeStore := by
  cases h <;> rfl

theorem runCalls_bridgeStore (calls : List HostCall) (s : State) : (runCalls calls s).bridgeStore = s.bridgeStore := by
  rcases runCalls_cases calls s with ⟨-, h⟩ | ⟨_, _, h, -⟩ | ⟨_, _, h⟩ | ⟨_, _, h⟩ | ⟨_, h⟩ | ⟨_, h⟩ <;>
    simp [h]

theorem exec_keeps_storeCanonical {i : Instr} {s t : State} (h : exec i s = .next t) (hs : StoreCanonical s) :
    StoreCanonical t := by
  rcases exec_effect h with ⟨-, heff⟩ | ⟨-, heff⟩
  · rwa [StoreCanonical, engineEffect_bridgeStore heff]
  · cases heff with
    | exchange _ b => exact exchangeStore_wf b s hs
    | _ => exact hs

/-- Settles O52: only an exchange writes the store, and it writes inside the register space. -/
theorem stepKeepsTheStoreCanonical : Obligations.StepKeepsTheStoreCanonical := fun _ _ h hs =>
  step_keeps (fun _ _ _ _ _ => id) (fun _ _ _ => exec_keeps_storeCanonical) (fun _ _ => id)
    (fun calls s hs => by rwa [StoreCanonical, runCalls_bridgeStore]) hs h

/-! ### The faults (R47, R300, R302) -/

/-- An instruction that gives a next state raises one fault and does nothing else, or leaves faults and halted bit
alone. -/
theorem exec_faults {i : Instr} {s t : State} (h : exec i s = .next t) :
    (∃ f, t = raiseFault f s) ∨ (t.faults = s.faults ∧ t.halted = s.halted) := by
  rcases exec_effect h with ⟨-, heff⟩ | ⟨-, heff⟩
  · cases heff with
    | unlisted _ e => exact .inl ⟨_, rfl⟩
    | _ => exact .inr ⟨rfl, rfl⟩
  · cases heff with
    | reentry _ w => exact .inl ⟨_, rfl⟩
    | invalidDevice _ w => exact .inl ⟨_, rfl⟩
    | notConfigured _ w => exact .inl ⟨_, rfl⟩
    | conflict d => exact .inl ⟨_, rfl⟩
    | _ => exact .inr ⟨rfl, rfl⟩

theorem runCalls_faults (calls : List HostCall) (s : State) :
    (runCalls calls s).faults = s.faults ∧ (runCalls calls s).halted = s.halted := by
  rcases runCalls_cases calls s with ⟨-, h⟩ | ⟨_, _, h, -⟩ | ⟨_, _, h⟩ | ⟨_, _, h⟩ | ⟨_, h⟩ | ⟨_, h⟩ <;> rw [h] <;>
    exact ⟨rfl, rfl⟩

/-- A fault not yet recorded is one more record at the end. -/
theorem raiseFault_of_not_mem {f : FaultRecord} {s : State} (h : f ∉ s.faults) : OnlyFault f s (raiseFault f s) := by
  simp only [OnlyFault, raiseFault, if_neg h]

/-- Settles O49: what changes the faults is the raising of one, which changes nothing where it is recorded already. -/
theorem faultsArePrecise : Obligations.FaultsArePrecise := by
  intro i s t h hne
  rcases exec_faults h with ⟨f, rfl⟩ | ⟨heq, -⟩
  · have hf : f ∉ s.faults := fun hmem => hne (by rw [raiseFault_faults, if_pos hmem])
    exact ⟨f, hf, raiseFault_of_not_mem hf⟩
  · exact absurd heq hne

/-- The halted bit agrees with the faults, and no record stands twice (R47). -/
def FaultsWellKept (s : State) : Prop := HaltedIffFault s ∧ FaultsAreSet s

theorem faultsWellKept_congr {s t : State} (h : t.faults = s.faults ∧ t.halted = s.halted) :
    FaultsWellKept t ↔ FaultsWellKept s := by
  simp only [FaultsWellKept, HaltedIffFault, FaultsAreSet, h.1, h.2]

theorem raiseFault_keeps_faultsWellKept (f : FaultRecord) (s : State) (h : FaultsWellKept s) :
    FaultsWellKept (raiseFault f s) := by
  refine ⟨⟨fun _ => List.ne_nil_of_mem (mem_raiseFault f s), fun _ => rfl⟩, ?_⟩
  by_cases hf : f ∈ s.faults
  · simpa only [FaultsAreSet, raiseFault_faults, if_pos hf] using h.2
  · simpa only [FaultsAreSet, raiseFault_faults, if_neg hf, List.concat_eq_append] using h.2.concat hf

/-- Settles O53: only the raising of a fault touches either. -/
theorem stepKeepsHaltedIffFault : Obligations.StepKeepsHaltedIffFault := by
  intro s t hhalted hset hs
  refine step_keeps (P := FaultsWellKept) (fun _ _ _ _ _ => id) (fun i s t h hP => ?_) raiseFault_keeps_faultsWellKept
    (fun calls s => (faultsWellKept_congr (runCalls_faults calls s)).2) hs ⟨hhalted, hset⟩
  rcases exec_faults h with ⟨f, rfl⟩ | hsame
  · exact raiseFault_keeps_faultsWellKept f s hP
  · exact (faultsWellKept_congr hsame).2 hP

/-! ### The engine's transaction (R33 to R37, R142) -/

@[simp] theorem sameI2c_refl (s : State) : SameI2c s s := ⟨rfl, rfl, rfl, rfl, rfl, rfl, rfl⟩

theorem busEffect_sameI2c {i : Instr} {s t : State} (h : BusEffect s i t) : SameI2c s t := by
  cases h <;> exact ⟨rfl, rfl, rfl, rfl, rfl, rfl, rfl⟩

theorem runCalls_sameI2c (calls : List HostCall) (s : State) : SameI2c s (runCalls calls s) := by
  rcases runCalls_cases calls s with ⟨-, h⟩ | ⟨_, _, h, -⟩ | ⟨_, _, h⟩ | ⟨_, _, h⟩ | ⟨_, h⟩ | ⟨_, h⟩ <;> rw [h] <;>
    exact ⟨rfl, rfl, rfl, rfl, rfl, rfl, rfl⟩

/-- What is held stays held where the engine's registers stay and the completion flag is set only if it was. -/
theorem transactionHeld_of_fields {s t : State} (hs : TransactionHeld s) (hst : t.i2cState = s.i2cState)
    (ht : t.i2cTarget = s.i2cTarget) (hr : t.i2cReg = s.i2cReg) (hb : t.i2cLastByte = s.i2cLastByte)
    (hd : t.i2cDone = true → s.i2cDone = true) (hn : t.i2cNackEnd = s.i2cNackEnd) : TransactionHeld t where
  target hne := ht ▸ hs.target (hst ▸ hne)
  reg hne := hr ▸ hs.reg (hst ▸ hne)
  notDone hne := Bool.eq_false_iff.2 fun hdone => by simpa [hs.notDone (hst ▸ hne)] using hd hdone
  byteInWaitStop hw := hb ▸ hs.byteInWaitStop (hst ▸ hw)
  byteWhenDone hdone hnack := hb ▸ hs.byteWhenDone (hd hdone) (hn ▸ hnack)

theorem transactionHeld_congr {s t : State} (h : SameI2c s t) (hs : TransactionHeld s) : TransactionHeld t := by
  obtain ⟨hst, ht, hr, hb, hd, hn, -⟩ := h
  exact transactionHeld_of_fields hs hst ht hr hb (hd ▸ id) hn

theorem engineEffect_keeps_transactionHeld {i : Instr} {s t : State} (h : EngineEffect s i t) (hs : TransactionHeld s) :
    TransactionHeld t := by
  cases h with
  | start t r _ => exact ⟨fun _ => rfl, fun _ => rfl, fun _ => rfl, nofun, nofun⟩
  | poll done n h => exact transactionHeld_of_fields hs rfl rfl rfl rfl h rfl
  | stray _ done n h => exact transactionHeld_of_fields hs rfl rfl rfl rfl h rfl
  | ack h =>
    have hne : s.i2cState ≠ .idle := by simp [h]
    exact ⟨fun _ => hs.target hne, fun _ => hs.reg hne, fun _ => hs.notDone hne, nofun, hs.byteWhenDone⟩
  | again _ h =>
    have hne : s.i2cState ≠ .idle := by simp [h]
    exact ⟨fun _ => hs.target hne, fun _ => hs.reg hne, fun _ => hs.notDone hne, nofun, hs.byteWhenDone⟩
  | capture b h =>
    have hne : s.i2cState ≠ .idle := by simp [h]
    exact ⟨fun _ => hs.target hne, fun _ => hs.reg hne, fun _ => hs.notDone hne, fun _ => rfl, fun _ _ => rfl⟩
  | complete h => exact ⟨absurd rfl, absurd rfl, absurd rfl, nofun, fun _ _ => hs.byteInWaitStop h⟩
  | nack => exact ⟨absurd rfl, absurd rfl, absurd rfl, nofun, nofun⟩
  | _ => exact transactionHeld_of_fields hs rfl rfl rfl rfl id rfl

/-- Settles O54: the SPI side leaves the transaction alone; on the I2C side each transition hands over what its next state
needs. -/
theorem stepKeepsTheTransactionHeld : Obligations.StepKeepsTheTransactionHeld := by
  intro s t hheld hs
  refine step_keeps (P := TransactionHeld) (fun s _ _ _ _ => transactionHeld_congr ⟨rfl, rfl, rfl, rfl, rfl, rfl, rfl⟩)
    (fun i s t h => ?_)
    (fun f s => transactionHeld_congr ⟨rfl, rfl, rfl, rfl, rfl, rfl, rfl⟩)
    (fun calls s => transactionHeld_congr (runCalls_sameI2c calls s)) hs hheld
  rcases exec_effect h with ⟨-, heff⟩ | ⟨-, heff⟩
  · exact engineEffect_keeps_transactionHeld heff
  · exact transactionHeld_congr (busEffect_sameI2c heff)

/-! ### The logs (R38, R43, R47) -/

/-- The logs and the faults of `t` go on from those of `s`. -/
def Extends (s t : State) : Prop := s.i2cLog <+: t.i2cLog ∧ s.spiLog <+: t.spiLog ∧ s.faults <+: t.faults

theorem extends_refl (s : State) : Extends s s := ⟨List.prefix_rfl, List.prefix_rfl, List.prefix_rfl⟩

theorem extends_trans {s t u : State} (h : Extends s t) (h' : Extends t u) : Extends s u :=
  ⟨h.1.trans h'.1, h.2.1.trans h'.2.1, h.2.2.trans h'.2.2⟩

theorem extends_raiseFault (f : FaultRecord) (s : State) : Extends s (raiseFault f s) := by
  refine ⟨List.prefix_rfl, List.prefix_rfl, ?_⟩
  rw [raiseFault_faults]
  split
  · exact List.prefix_rfl
  · exact List.prefix_append _ _

theorem extends_i2cLog {s t : State} (cs : List BusCmd) (hi : t.i2cLog = s.i2cLog ++ cs) (hs : t.spiLog = s.spiLog)
    (hf : t.faults = s.faults) : Extends s t :=
  ⟨hi ▸ List.prefix_append _ _, hs ▸ List.prefix_rfl, hf ▸ List.prefix_rfl⟩

theorem extends_spiLog {s t : State} (es : List SpiEvent) (hi : t.i2cLog = s.i2cLog) (hs : t.spiLog = s.spiLog ++ es)
    (hf : t.faults = s.faults) : Extends s t :=
  ⟨hi ▸ List.prefix_rfl, hs ▸ List.prefix_append _ _, hf ▸ List.prefix_rfl⟩

theorem engineEffect_extends {i : Instr} {s t : State} (h : EngineEffect s i t) : Extends s t := by
  cases h with
  | unlisted _ e => exact extends_raiseFault _ s
  | start => exact extends_i2cLog [_] rfl rfl rfl
  | issue => exact extends_i2cLog [_] rfl rfl rfl
  | ack => exact extends_i2cLog [_] rfl rfl rfl
  | again => exact extends_i2cLog [_] rfl rfl rfl
  | capture => exact extends_i2cLog [_] rfl rfl rfl
  | nack => exact extends_i2cLog [_] rfl rfl rfl
  | _ => exact extends_refl s

theorem busEffect_extends {i : Instr} {s t : State} (h : BusEffect s i t) : Extends s t := by
  cases h with
  | reentry => exact extends_raiseFault _ s
  | invalidDevice => exact extends_raiseFault _ s
  | notConfigured => exact extends_raiseFault _ s
  | conflict => exact extends_raiseFault _ s
  | select => exact extends_spiLog [_] rfl rfl rfl
  | deselect => exact extends_spiLog [_] rfl rfl rfl
  | delay => exact extends_spiLog [_] rfl rfl rfl
  | exchange => exact extends_spiLog [_] rfl rfl rfl
  | _ => exact extends_refl s

theorem runCalls_extends (calls : List HostCall) (s : State) : Extends s (runCalls calls s) := by
  rcases runCalls_cases calls s with ⟨-, h⟩ | ⟨_, _, h, -⟩ | ⟨_, _, h⟩ | ⟨_, _, h⟩ | ⟨_, h⟩ | ⟨_, h⟩ <;> rw [h] <;>
    exact extends_refl s

/-- Settles O57: whatever a step does goes on from the logs and faults it finds. -/
theorem logsOnlyGrow : Obligations.LogsOnlyGrow := by
  intro s t hs
  refine step_keeps (P := Extends s) (fun _ _ _ _ _ => id) (fun i u v h hu => extends_trans hu ?_)
    (fun f u hu => extends_trans hu (extends_raiseFault f u))
    (fun calls u hu => extends_trans hu (runCalls_extends calls u)) hs (extends_refl s)
  rcases exec_effect h with ⟨-, heff⟩ | ⟨-, heff⟩
  · exact engineEffect_extends heff
  · exact busEffect_extends heff

end Sys2Proof.Machine
end


section
/-! What the two sides leave alone (spec/40_i2c_master.md R153, R155) and who writes the channel table
(spec/10_state.md R44, R45, R48). -/

namespace Sys2Proof.Machine

/-! ### Taking a word -/

/-- Taking a word changes only what is still to come. -/
theorem takesWord_frame {s u : State} {rest : List Turn} {p : PortWord} (h : TakesWord s rest p u) :
    u = { s with agenda := u.agenda, hostWords := u.hostWords, events := u.events, spiSeq := u.spiSeq } := by
  cases h <;> rfl

theorem takesWord_event {s u : State} {rest : List Turn} {e : Half} (h : TakesWord s rest (.event e) u) :
    NextEvent s e := by
  cases h with
  | event _ es ha he => exact .inl ⟨_, _, ha, he⟩
  | bench _ ha => exact .inr ⟨_, ha⟩

theorem takesWord_host {s u : State} {rest : List Turn} {w : Word} (h : TakesWord s rest (.host w) u) :
    NextHostWord s w := by
  cases h with
  | host _ ws ha hb hw => exact .inl ⟨_, _, ha, hb, hw⟩
  | bench _ ha => exact .inr ⟨_, ha⟩

/-! ### The way back to Idle (R153) -/

/-- Only two effects enter Idle. -/
theorem engineEffect_enters_idle {i : Instr} {s t : State} (h : EngineEffect s i t) (hs : s.i2cState ≠ .idle)
    (ht : t.i2cState = .idle) : i = .evNack ∨ (i = .evStopd ∧ s.i2cState = .waitStop) := by
  cases h with
  | start => cases ht
  | ack => cases ht
  | again => cases ht
  | capture => cases ht
  | nack => exact .inl rfl
  | complete h => exact .inr ⟨rfl, h⟩
  | _ => exact absurd ht hs

theorem exec_enters_idle {i : Instr} {s t : State} (h : exec i s = .next t) (hs : s.i2cState ≠ .idle)
    (ht : t.i2cState = .idle) : i = .evNack ∨ (i = .evStopd ∧ s.i2cState = .waitStop) := by
  rcases exec_effect h with ⟨-, heff⟩ | ⟨-, heff⟩
  · exact engineEffect_enters_idle heff hs ht
  · obtain ⟨hst, -⟩ := busEffect_sameI2c heff
    exact absurd (hst ▸ ht) hs

/-- An instruction that a word decodes to has that word. -/
theorem word_eq_encode {p : PortWord} {i : Instr} (h : decode p = .ok i) : p = encode i :=
  (encodeOfDecodedIsTheWord p i h).2.symm

/-- Settles O22: no fault, no passed turn and no call of a procedure writes the engine's state, and the two instructions
that enter Idle have one word each. -/
theorem onlyNackOrStopReturnsTheEngineToIdle : Obligations.OnlyNackOrStopReturnsTheEngineToIdle := by
  refine ⟨fun i s t => exec_enters_idle, fun s t hs hne hidle => ?_⟩
  obtain ⟨-, turn, rest, -, hcase⟩ := step_cases s t hs
  rcases hcase with ⟨p, u, i, hu, hd, hi⟩ | ⟨p, u, e, hu, -, hr⟩ | ⟨-, -, -, rfl⟩ | rfl
  · have hst : u.i2cState = s.i2cState := by rw [takesWord_frame hu]
    obtain rfl := word_eq_encode hd
    rcases exec_enters_idle hi (hst ▸ hne) hidle with rfl | ⟨rfl, hw⟩
    · exact .inl (takesWord_event hu)
    · exact .inr ⟨takesWord_event hu, hst ▸ hw⟩
  · have hst : u.i2cState = s.i2cState := by rw [takesWord_frame hu]
    refine absurd ?_ hne
    rcases rejectWord_cases p u t hr with rfl | ⟨f, rfl⟩
    · exact hst ▸ hidle
    · exact hst ▸ hidle
  · obtain ⟨hst, -⟩ := runCalls_sameI2c s.hostOp { s with agenda := rest }
    exact absurd (hst ▸ hidle) hne
  · exact absurd hidle hne

/-! ### The two sides (R155) -/

theorem engineEffect_sameSpi {i : Instr} {s t : State} (h : EngineEffect s i t) :
    SameSpi s t ∧ t.bridgeStore = s.bridgeStore := by
  cases h <;> exact ⟨⟨rfl, rfl, rfl, rfl, rfl, rfl, rfl, rfl, rfl⟩, rfl⟩

theorem exec_sameSpi {i : Instr} (hi : i.isI2c = true) {s t : State} (h : exec i s = .next t) :
    SameSpi s t ∧ t.bridgeStore = s.bridgeStore := by
  obtain ⟨u, hu, heff⟩ := exec_isI2c hi s
  cases hu.symm.trans h
  exact engineEffect_sameSpi heff

theorem exec_sameI2c {i : Instr} (hi : i.isI2c = false) {s t : State} (h : exec i s = .next t) : SameI2c s t :=
  busEffect_sameI2c (exec_not_isI2c hi h)

theorem rejectWord_sameBoth {p : PortWord} {s t : State} (h : rejectWord p s = .next t) :
    SameI2c s t ∧ SameSpi s t ∧ t.bridgeStore = s.bridgeStore := by
  rcases rejectWord_cases p s t h with rfl | ⟨f, rfl⟩ <;>
    exact ⟨⟨rfl, rfl, rfl, rfl, rfl, rfl, rfl⟩, ⟨rfl, rfl, rfl, rfl, rfl, rfl, rfl, rfl, rfl⟩, rfl⟩

/-- A turn of the engine runs an event, or changes nothing of the SPI side. -/
theorem step_engine_sameSpi {s t : State} {rest : List Turn} (hs : step s = .next t) (ha : s.agenda = .engine :: rest) :
    SameSpi s t ∧ t.bridgeStore = s.bridgeStore := by
  obtain ⟨hh, -⟩ := step_next_takes_a_turn s t hs
  cases he : s.events with
  | nil =>
    simp only [step, fetch_engine_idle s rest hh ha he] at hs
    cases hs
    exact ⟨⟨rfl, rfl, rfl, rfl, rfl, rfl, rfl, rfl, rfl⟩, rfl⟩
  | cons e es =>
    simp only [step, fetch_engine s rest e es hh ha he, decode] at hs
    split at hs
    · next i hd => exact (exec_sameSpi (isI2c_of_decodeEvent hd) hs :)
    · exact (rejectWord_sameBoth hs).2

/-- A turn of the sequencer runs a micro-operation, or changes nothing of the I2C side. -/
theorem step_sequencer_sameI2c {s t : State} {rest : List Turn} (hs : step s = .next t)
    (ha : s.agenda = .sequencer :: rest) : SameI2c s t := by
  obtain ⟨hh, -⟩ := step_next_takes_a_turn s t hs
  cases hq : s.spiSeq with
  | nil =>
    simp only [step, fetch_sequencer_idle s rest hh ha hq] at hs
    cases hs
    exact sameI2c_refl s
  | cons u us =>
    simp only [step, fetch_sequencer s rest u us hh ha hq, decode] at hs
    split at hs
    · next i hd => exact (exec_sameI2c (not_isI2c_of_decodeMicro hd) hs :)
    · exact (rejectWord_sameBoth hs).1

theorem step_blocked_host_sameI2c {s t : State} {rest : List Turn} (hs : step s = .next t)
    (ha : s.agenda = .host :: rest) (hb : s.spiBusy = true) : SameI2c s t := by
  obtain ⟨hh, -⟩ := step_next_takes_a_turn s t hs
  by_cases hq : s.spiSeq = []
  · cases (step_host_resumes s rest hh ha hb hq).symm.trans hs
    exact runCalls_sameI2c s.hostOp { s with agenda := rest }
  · simp only [step, fetch_host_blocked s rest hh ha hb hq] at hs
    cases hs
    exact sameI2c_refl s

/-- Settles O58: instruction by instruction its side, and the turns by the words they take. -/
theorem engineAndSpiAreIndependent : Obligations.EngineAndSpiAreIndependent := by
  refine ⟨fun i s t h => ?_, fun p s t => rejectWord_sameBoth, fun s t rest hs =>
    ⟨step_engine_sameSpi hs, step_sequencer_sameI2c hs, step_blocked_host_sameI2c hs⟩⟩
  cases i with
  | i2cStart | i2cIsdone | i2cGetbyte | i2cAddrW | i2cAddrR | bcStartW | bcWrite | bcRstartR | bcNackStop | bcStop
  | evAck | evNack | evTxe | evRxv | evStopd => exact exec_sameSpi rfl h
  | spiWrite | spiRead | uartInit | uartSendchar | uartRecvchar | uartAvail | uartGeterr | uartClrerr | baudLookup
  | spiFrameWrite | spiFrameRead | uSelect | uDeselect | uDelay | uXfer => exact exec_sameI2c rfl h

/-! ### The channel table (R44, R45, R48) -/

/-- A configured flag changes where a UART_INIT starts, which clears its device's. -/
theorem exec_channel_table {i : Instr} {s t : State} (h : exec i s = .next t) :
    t.options = s.options ∧ t.chDivisor = s.chDivisor ∧ (t.devConfigured ≠ s.devConfigured →
      ∃ (d : Device) (rate : Rate), i = .uartInit d.bits rate ∧ t.devConfigured = s.devConfigured.set d false) := by
  rcases exec_effect h with ⟨-, heff⟩ | ⟨-, heff⟩
  · cases heff <;> exact ⟨rfl, rfl, absurd rfl⟩
  · cases heff with
    | init dev rate => exact ⟨rfl, rfl, fun _ => ⟨dev, rate, rfl, rfl⟩⟩
    | _ => exact ⟨rfl, rfl, absurd rfl⟩

/-- A divisor and a configured flag are each written by one call. -/
theorem runCalls_channel_table (calls : List HostCall) (s : State) :
    (runCalls calls s).options = s.options ∧
    ((runCalls calls s).chDivisor ≠ s.chDivisor → ∃ d c div rest, calls = .recordDivisor d c div :: rest ∧
      (runCalls calls s).chDivisor = s.chDivisor.set d ((s.chDivisor.get d).set c (some div))) ∧
    ((runCalls calls s).devConfigured ≠ s.devConfigured → ∃ d rest, calls = .markConfigured d :: rest ∧
      (runCalls calls s).devConfigured = s.devConfigured.set d true) := by
  cases calls with
  | nil => exact ⟨rfl, absurd rfl, absurd rfl⟩
  | cons call rest =>
    cases call with
    | recordDivisor d c div => exact ⟨rfl, fun _ => ⟨d, c, div, rest, rfl, rfl⟩, absurd rfl⟩
    | markConfigured d => exact ⟨rfl, absurd rfl, fun _ => ⟨d, rest, rfl, rfl⟩⟩
    | testLevel =>
      simp only [runCalls]
      split <;> exact ⟨rfl, absurd rfl, absurd rfl⟩
    | _ => exact ⟨rfl, absurd rfl, absurd rfl⟩

/-- Settles O59: instructions and calls one by one; the word of a UART_INIT is a host word. -/
theorem onlyUartInitTouchesTheChannelTable : Obligations.OnlyUartInitTouchesTheChannelTable := by
  refine ⟨fun i s t h => ?_, fun s t hs => ?_⟩
  · obtain ⟨-, hdiv, hconf⟩ := exec_channel_table h
    refine ⟨hdiv, fun hne => ?_⟩
    obtain ⟨d, rate, hi, -⟩ := hconf hne
    exact ⟨d.bits, rate, hi⟩
  obtain ⟨-, turn, rest, ha, hcase⟩ := step_cases s t hs
  rcases hcase with ⟨p, u, i, hu, hd, hi⟩ | ⟨p, u, e, hu, -, hr⟩ | ⟨rfl, hb, hq, rfl⟩ | rfl
  · have hframe := takesWord_frame hu
    have hudiv : u.chDivisor = s.chDivisor := by rw [hframe]
    have huconf : u.devConfigured = s.devConfigured := by rw [hframe]
    have huopt : u.options = s.options := by rw [hframe]
    obtain ⟨hopt, hdiv, hconf⟩ := exec_channel_table hi
    refine ⟨hopt.trans huopt, fun hne => absurd (hdiv.trans hudiv) hne, fun hne => ?_⟩
    obtain ⟨d, rate, rfl, hset⟩ := hconf (huconf ▸ hne)
    obtain rfl := word_eq_encode hd
    exact ⟨d, .inr ⟨_, rate, takesWord_host hu, hd, huconf ▸ hset⟩⟩
  · have hframe := takesWord_frame hu
    have hudiv : u.chDivisor = s.chDivisor := by rw [hframe]
    have huconf : u.devConfigured = s.devConfigured := by rw [hframe]
    have huopt : u.options = s.options := by rw [hframe]
    rcases rejectWord_cases p u t hr with rfl | ⟨f, rfl⟩ <;>
      exact ⟨huopt, absurd hudiv, absurd huconf⟩
  · obtain ⟨hopt, hdiv, hconf⟩ := runCalls_channel_table s.hostOp { s with agenda := rest }
    refine ⟨hopt, fun hne => ?_, fun hne => ?_⟩
    · obtain ⟨d, c, div, calls, hop, hset⟩ := hdiv hne
      exact ⟨d, c, div, ⟨⟨rest, ha⟩, hb, hq, calls, hop⟩, hset⟩
    · obtain ⟨d, calls, hop, hset⟩ := hconf hne
      exact ⟨d, .inl ⟨⟨⟨rest, ha⟩, hb, hq, calls, hop⟩, hset⟩⟩
  · exact ⟨rfl, absurd rfl, absurd rfl⟩

end Sys2Proof.Machine
end


section
/-! A run of the spec's own agents (spec/42_cs_arbiter.md R215; spec/60_exceptions.md R293, R294, R320, R321): frames stay
bracketed, and no step conflicts or stops. -/

namespace Sys2Proof.Machine

/-! ### The sequencer's list beside the chip-select lines -/

/-- A frame drawn up to its k-th micro-operation still has one to come. -/
theorem frameWords_drop_ne_nil (d : Device) (b1 b2 : Byte) {k : Nat} (hk : k ≤ 5) : (frameWords d b1 b2).drop k ≠ [] := by
  simp [frameWords]
  omega

/-- With nothing left for the sequencer no device is selected. -/
theorem selectedSet_of_list_done {s : State} (h : ListMatchesLines s) (hq : s.spiSeq = []) : selectedSet s = [] := by
  rcases h with ⟨hsel, -⟩ | ⟨d, b1, b2, k, -, hk, hlist, -⟩
  · exact hsel
  · exact absurd (hlist.symm.trans hq) (frameWords_drop_ne_nil d b1 b2 hk)

theorem listMatchesLines_congr {s t : State} (hq : t.spiSeq = s.spiSeq) (hc : t.csSel = s.csSel)
    (h : ListMatchesLines s) : ListMatchesLines t := by
  simpa only [ListMatchesLines, hq, selectedSet_congr s t hc] using h

/-- A list that is done, with nothing selected. -/
theorem listMatchesLines_done {s : State} (hq : s.spiSeq = []) (hc : selectedSet s = []) : ListMatchesLines s :=
  .inl ⟨hc, .inl hq⟩

/-! ### What a disciplined step does -/

/-- `t` is disciplined, and its faults beyond those of `s` are neither a CS_CONFLICT nor an SPI_REENTRY. -/
def DisciplinedNext (s t : State) : Prop :=
  Disciplined t ∧ ∀ f ∈ t.faults, f ∈ s.faults ∨ ((∀ d l, f ≠ .csConflict d l) ∧ ∀ w, f ≠ .spiReentry w)

/-- No new fault at all. -/
theorem disciplinedNext_of_faults {s t : State} (h : Disciplined t) (hf : t.faults = s.faults) : DisciplinedNext s t :=
  ⟨h, fun _ hmem => .inl (hf ▸ hmem)⟩

/-- A fault changes nothing discipline looks at. -/
theorem disciplinedNext_raiseFault {s u : State} {f : FaultRecord} (h : Disciplined u) (hf : u.faults = s.faults)
    (hc : ∀ d l, f ≠ .csConflict d l) (hr : ∀ w, f ≠ .spiReentry w) : DisciplinedNext s (raiseFault f u) := by
  refine ⟨h, fun g hg => ?_⟩
  rw [raiseFault_faults, hf] at hg
  split at hg
  · exact .inl hg
  · rcases List.mem_append.1 hg with hg | hg
    · exact .inl hg
    · cases List.mem_singleton.1 hg
      exact .inr ⟨hc, hr⟩

/-- What discipline looks at. -/
theorem disciplined_congr {s t : State} (ha : t.agenda = s.agenda) (hb : t.spiBusy = s.spiBusy)
    (hq : t.spiSeq = s.spiSeq) (ho : t.hostOp = s.hostOp) (hc : t.csSel = s.csSel) (h : Disciplined s) :
    Disciplined t := by
  obtain ⟨hag, hfree, hlist⟩ := h
  exact ⟨ha ▸ hag, fun hbusy => by rw [hq, ho]; exact hfree (hb ▸ hbusy), listMatchesLines_congr hq hc hlist⟩

/-- An instruction of the I2C side leaves a disciplined state disciplined. -/
theorem disciplinedNext_of_engineEffect {i : Instr} {s u t : State} (h : EngineEffect u i t) (hu : Disciplined u)
    (hf : u.faults = s.faults) : DisciplinedNext s t := by
  cases h with
  | unlisted _ e => exact disciplinedNext_raiseFault hu hf nofun nofun
  | _ => exact disciplinedNext_of_faults (disciplined_congr rfl rfl rfl rfl rfl hu) hf

/-- A host word issued on a free bus starts its frame with nothing selected, or does not touch the bus. -/
theorem disciplinedNext_of_busEffect {i : Instr} {s u t : State} (h : BusEffect u i t) {w : Word}
    (hi : encode i = .host w) (hb : u.spiBusy = false) (hu : Disciplined u) (hf : u.faults = s.faults) :
    DisciplinedNext s t := by
  obtain ⟨hag, hfree, hlist⟩ := id hu
  have hsel : selectedSet u = [] := selectedSet_of_list_done hlist (hfree hb).1
  cases h with
  | reentry _ _ hbusy => exact absurd (hb.symm.trans hbusy) (by decide)
  | invalidDevice => exact disciplinedNext_raiseFault hu hf nofun nofun
  | notConfigured => exact disciplinedNext_raiseFault hu hf nofun nofun
  | result => exact disciplinedNext_of_faults hu hf
  | start _ d b1 b2 calls => exact disciplinedNext_of_faults ⟨hag, nofun, .inl ⟨hsel, .inr (.inr ⟨d, b1, b2, rfl⟩)⟩⟩ hf
  | init _ _ d b1 b2 calls =>
    exact disciplinedNext_of_faults ⟨hag, nofun, .inl ⟨hsel, .inr (.inr ⟨d, b1, b2, rfl⟩)⟩⟩ hf
  | exchange _ b hne => exact absurd hi (hne w)
  | _ => cases hi

/-- Every instruction with a host word gives a next state. -/
theorem exec_host_answers {i : Instr} {w : Word} (hi : encode i = .host w) (s : State) : ∃ t, exec i s = .next t := by
  cases i with
  | i2cStart | i2cIsdone | i2cGetbyte | spiWrite | spiRead | uartInit | uartSendchar | uartRecvchar | uartAvail
  | uartGeterr | uartClrerr | baudLookup => exact ⟨_, rfl⟩
  | _ => cases hi

section
variable {s : State} {rest : List Turn} (hs : Disciplined s) (hh : s.halted = false)
include hs

theorem disciplined_without_turn {turn : Turn} (ha : s.agenda = turn :: rest) :
    Disciplined { s with agenda := rest } := by
  obtain ⟨hag, hfree, hlist⟩ := hs
  exact ⟨fun t ht => hag t (ha ▸ List.mem_cons_of_mem turn ht), hfree, listMatchesLines_congr rfl rfl hlist⟩

include hh

theorem host_issues_disciplined (ha : s.agenda = .host :: rest) (hb : s.spiBusy = false) {w : Word} {ws : List Word}
    (hw : s.hostWords = w :: ws) : ∃ t, step s = .next t ∧ DisciplinedNext s t := by
  have hu : Disciplined { s with agenda := rest, hostWords := ws } :=
    disciplined_congr rfl rfl rfl rfl rfl (disciplined_without_turn hs ha)
  have hf := fetch_host_issues s rest w ws hh ha hb hw
  cases hd : decodeHost w with
  | error e => exact ⟨_, step_rejects hf hd, disciplinedNext_raiseFault hu rfl nofun nofun⟩
  | ok i =>
    have hi : encode i = .host w := (word_eq_encode (p := .host w) hd).symm
    obtain ⟨t, ht⟩ := exec_host_answers hi { s with agenda := rest, hostWords := ws }
    refine ⟨t, (step_host_issues s rest w ws i hh ha hb hw hd).trans ht, ?_⟩
    rcases exec_effect ht with ⟨-, heff⟩ | ⟨-, heff⟩
    · exact disciplinedNext_of_engineEffect heff hu rfl
    · exact disciplinedNext_of_busEffect heff hi hb hu rfl

theorem host_resumes_disciplined (ha : s.agenda = .host :: rest) (hb : s.spiBusy = true) (hq : s.spiSeq = []) :
    ∃ t, step s = .next t ∧ DisciplinedNext s t := by
  have hu := disciplined_without_turn hs ha
  have hsel : selectedSet s = [] := selectedSet_of_list_done hs.2.2 hq
  refine ⟨_, step_host_resumes s rest hh ha hb hq, disciplinedNext_of_faults ?_ (runCalls_faults _ _).1⟩
  obtain ⟨hag, -, -⟩ := hu
  have hbusy : ∀ {P : Prop}, s.spiBusy = false → P := fun hfree => absurd (hb.symm.trans hfree) (by decide)
  rcases runCalls_cases s.hostOp { s with agenda := rest } with
    ⟨-, h⟩ | ⟨us, _, h, hus⟩ | ⟨_, _, h⟩ | ⟨_, _, h⟩ | ⟨_, h⟩ | ⟨_, h⟩ <;> rw [h]
  · exact ⟨hag, hbusy, listMatchesLines_done hq hsel⟩
  · exact ⟨hag, hbusy, .inl ⟨hsel, .inr hus.symm⟩⟩
  · exact ⟨hag, hbusy, listMatchesLines_done hq hsel⟩
  · exact ⟨hag, hbusy, listMatchesLines_done hq hsel⟩
  · exact ⟨hag, hbusy, listMatchesLines_done hq hsel⟩
  · exact ⟨hag, fun _ => ⟨hq, rfl⟩, listMatchesLines_done hq hsel⟩

theorem host_turn_disciplined (ha : s.agenda = .host :: rest) : ∃ t, step s = .next t ∧ DisciplinedNext s t := by
  have passes : fetch s = .moved { s with agenda := rest } → ∃ t, step s = .next t ∧ DisciplinedNext s t := fun hf =>
    ⟨_, by simp only [step, hf], disciplinedNext_of_faults (disciplined_without_turn hs ha) rfl⟩
  cases hb : s.spiBusy with
  | true =>
    by_cases hq : s.spiSeq = []
    · exact host_resumes_disciplined hs hh ha hb hq
    · exact passes (fetch_host_blocked s rest hh ha hb hq)
  | false =>
    cases hw : s.hostWords with
    | nil => exact passes (fetch_host_idle s rest hh ha hb hw)
    | cons w ws => exact host_issues_disciplined hs hh ha hb hw

theorem engine_turn_disciplined (ha : s.agenda = .engine :: rest) : ∃ t, step s = .next t ∧ DisciplinedNext s t := by
  have hu := disciplined_without_turn hs ha
  cases he : s.events with
  | nil =>
    exact ⟨_, by simp only [step, fetch_engine_idle s rest hh ha he], disciplinedNext_of_faults hu rfl⟩
  | cons e es =>
    have hue : Disciplined { s with agenda := rest, events := es } := disciplined_congr rfl rfl rfl rfl rfl hu
    cases hd : decodeEvent e with
    | error err =>
      exact ⟨_, step_rejects (fetch_engine s rest e es hh ha he) hd, disciplinedNext_raiseFault hue rfl nofun nofun⟩
    | ok i =>
      obtain ⟨t, ht, heff⟩ := exec_isI2c (isI2c_of_decodeEvent hd) { s with agenda := rest, events := es }
      exact ⟨t, (step_engine s rest e es i hh ha he hd).trans ht, disciplinedNext_of_engineEffect heff hue rfl⟩

/-- The sequencer takes a list from one bracketed place to the next. -/
theorem sequencer_turn_disciplined (ha : s.agenda = .sequencer :: rest) :
    ∃ t, step s = .next t ∧ DisciplinedNext s t := by
  obtain ⟨hag, -, -⟩ := disciplined_without_turn hs ha
  obtain ⟨-, hfree, hlist⟩ := id hs
  have busy : ∀ {u us}, s.spiSeq = u :: us → ∀ {P : Prop}, s.spiBusy = false → P := fun hq _ hb =>
    absurd (hfree hb).1 (by simp [hq])
  rcases hlist with ⟨hsel, hq | ⟨id, hq⟩ | ⟨d, b1, b2, hq⟩⟩ | ⟨d, b1, b2, k, hk1, hk5, hq, hsel⟩
  · exact ⟨_, by simp only [step, fetch_sequencer_idle s rest hh ha hq],
      disciplinedNext_of_faults (disciplined_without_turn hs ha) rfl⟩
  · exact ⟨_, step_delay s rest id [] hh ha hq,
      disciplinedNext_of_faults ⟨hag, busy hq, listMatchesLines_done rfl hsel⟩ rfl⟩
  · exact ⟨_, step_select s rest d _ hh ha hq hsel, disciplinedNext_of_faults ⟨hag, busy hq,
      .inr ⟨d, b1, b2, 1, by decide, by decide, rfl, linesSelected_set_true s.csSel d hsel⟩⟩ rfl⟩
  · obtain rfl | rfl | rfl | rfl | rfl : k = 1 ∨ k = 2 ∨ k = 3 ∨ k = 4 ∨ k = 5 := by omega
    · exact ⟨_, step_delay s rest .tCss _ hh ha hq,
        disciplinedNext_of_faults ⟨hag, busy hq, .inr ⟨d, b1, b2, 2, by decide, by decide, rfl, hsel⟩⟩ rfl⟩
    · exact ⟨_, step_xfer s rest b1 _ hh ha hq,
        disciplinedNext_of_faults ⟨hag, busy hq, .inr ⟨d, b1, b2, 3, by decide, by decide, rfl, hsel⟩⟩ rfl⟩
    · exact ⟨_, step_xfer s rest b2 _ hh ha hq,
        disciplinedNext_of_faults ⟨hag, busy hq, .inr ⟨d, b1, b2, 4, by decide, by decide, rfl, hsel⟩⟩ rfl⟩
    · exact ⟨_, step_delay s rest .tCsh _ hh ha hq,
        disciplinedNext_of_faults ⟨hag, busy hq, .inr ⟨d, b1, b2, 5, by decide, by decide, rfl, hsel⟩⟩ rfl⟩
    · exact ⟨_, step_deselect s rest d _ hh ha hq, disciplinedNext_of_faults ⟨hag, busy hq,
        listMatchesLines_done rfl (linesSelected_set_false s.csSel d hsel)⟩ rfl⟩

/-- A disciplined state with a turn to come steps to a disciplined state. -/
theorem disciplined_step (hne : s.agenda ≠ []) : ∃ t, step s = .next t ∧ DisciplinedNext s t := by
  obtain ⟨turn, rest, ha⟩ := List.exists_cons_of_ne_nil hne
  cases turn with
  | host => exact host_turn_disciplined hs hh ha
  | engine => exact engine_turn_disciplined hs hh ha
  | sequencer => exact sequencer_turn_disciplined hs hh ha
  | bench p => cases hs.1 (.bench p) (ha ▸ List.mem_cons_self)

end

/-- Settles O55: the step is the disciplined one. -/
theorem disciplinedRunsNeverConflict : Obligations.DisciplinedRunsNeverConflict := by
  intro s t hs hstep
  obtain ⟨hh, turn, rest, ha⟩ := step_next_takes_a_turn s t hstep
  obtain ⟨u, hu, hnext⟩ := disciplined_step hs hh (by simp [ha])
  cases hu.symm.trans hstep
  exact hnext

/-- Settles O56: the disciplined step is a next state. -/
theorem disciplinedStepAnswersNext : Obligations.DisciplinedStepAnswersNext := by
  intro s hs hh hne
  obtain ⟨t, ht, -⟩ := disciplined_step hs hh hne
  exact ⟨t, ht⟩

end Sys2Proof.Machine
end


section
/-! The step and its words (spec/60_exceptions.md R300, R320, R321; spec/41_spi_register_access.md R181), the bus commands
(spec/30_encoding.md R112, R113), the transaction of spec/40_i2c_master.md R156, the chip-select lines
(spec/42_cs_arbiter.md R211, R212) and the invariants after reset (spec/70_reset_and_hazards.md). -/

namespace Sys2Proof.Machine

/-! ### The step -/

theorem step_of_word {s u : State} {p : PortWord} {i : Instr} (hf : fetch s = .word p u) (hd : decode p = .ok i) :
    step s = exec i u := by
  simp only [step, hf, hd]

theorem step_of_moved {s u : State} (hf : fetch s = .moved u) : step s = .next u := by
  simp only [step, hf]

/-- Settles O8: each kind of turn is one case of `fetch`. -/
theorem stepRunsTheDecodedInstruction : Obligations.StepRunsTheDecodedInstruction :=
  ⟨fun s rest w ws i hh ha hb hw hd => step_host_issues s rest w ws i hh ha hb hw hd,
    fun s rest e es i hh ha he hd => step_engine s rest e es i hh ha he hd,
    fun s rest u us i hh ha hq hd => step_sequencer s rest u us i hh ha hq hd,
    fun s rest p _ hh ha hd => step_of_word (fetch_bench s rest p hh ha) hd,
    fun s rest hh ha hb hq => step_of_moved (fetch_host_blocked s rest hh ha hb hq),
    fun s rest hh ha hb hq => step_host_resumes s rest hh ha hb hq⟩

/-- Settles O9: a halted block has no turn to take. -/
theorem haltedBlockHasNoStep : Obligations.HaltedBlockHasNoStep := by
  intro s hh
  simp only [step, fetch_halted s hh]

/-! ### Bus commands and address bytes (R112, R113) -/

/-- Settles O23: each of the seven meanings is one entry of the log. -/
theorem busCommandsAreAppendedToTheLog : Obligations.BusCommandsAreAppendedToTheLog :=
  fun _ _ _ => ⟨rfl, rfl, rfl, rfl, rfl, rfl, rfl⟩

/-! ### A transaction (R156) -/

section
variable {n : Nat} {s t u : State} {rest : List Turn} {i : Instr}

/-- A run whose first step takes an event. -/
theorem runsTo_event {e : Half} {es : List Half} (hh : s.halted = false) (ha : s.agenda = .engine :: rest)
    (he : s.events = e :: es) (hd : decodeEvent e = .ok i)
    (hi : exec i { s with agenda := rest, events := es } = .next t) (hrun : runsTo n t u) : runsTo (n + 1) s u :=
  runsTo_step ((step_engine s rest e es i hh ha he hd).trans hi) hrun

/-- A run whose first step issues a host word. -/
theorem runsTo_host_word {w : Word} {ws : List Word} (hh : s.halted = false) (ha : s.agenda = .host :: rest)
    (hb : s.spiBusy = false) (hw : s.hostWords = w :: ws) (hd : decodeHost w = .ok i)
    (hi : exec i { s with agenda := rest, hostWords := ws } = .next t) (hrun : runsTo n t u) : runsTo (n + 1) s u :=
  runsTo_step ((step_host_issues s rest w ws i hh ha hb hw hd).trans hi) hrun

end

/-- The word of a host operation decodes to it. -/
theorem decodeHost_of_encode {i : Instr} {w : Word} (hwf : WellFormed i = true) (hw : encode i = .host w) :
    decodeHost w = .ok i := by
  have h := decodeOfEncodeIsIdentity i hwf
  rwa [hw] at h

/-- In SendReg an ack and a tx-buffer-empty do the same (R146). -/
theorem sendReg_event {e : Half} (he : e = 0x0000#16 ∨ e = 0x0002#16) : ∃ i, decodeEvent e = .ok i ∧
    ∀ (s : State) (t : Target), s.i2cState = .sendReg → s.i2cTarget = some t →
      exec i s = .next { s with i2cLog := s.i2cLog ++ [.rstartR (addrByte t 1#1)], i2cState := .read } := by
  obtain ⟨htxe, hack, hboth⟩ := sendRegAdvancesOnTxeAndOnAck
  rcases he with rfl | rfl
  · exact ⟨.evAck, hack, fun s t hs ht => (hboth s t hs ht).2⟩
  · exact ⟨.evTxe, htxe, fun s t hs ht => (hboth s t hs ht).1⟩

/-- Settles O21: the host issues the start, then each event finds the state the one before it left. -/
theorem transactionReadsOneRegister : Obligations.TransactionReadsOneRegister := by
  intro s t r b e2 rest ws es w hh hidle hb hw he2 ha hws hes
  obtain ⟨hack, hwrite⟩ := ackInSendAddrWritesTheRegisterAddress
  obtain ⟨i2, hd2, hrestart⟩ := sendReg_event he2
  obtain ⟨hstopd, hcomplete⟩ := stopdInWaitStopCompletes
  refine runsTo_host_word hh ha hb hws (decodeHost_of_encode rfl hw)
    ((i2cStartStartsOnlyFromIdle.2 _ t r).2.1 hidle) ?_
  refine runsTo_event hh rfl hes hack (hwrite _ r rfl rfl) ?_
  refine runsTo_event hh rfl rfl hd2 (hrestart _ t rfl rfl) ?_
  refine runsTo_event hh rfl rfl (decodeEvent_rxv b) ((rxvInReadCapturesTheByte _ b).2 rfl) ?_
  refine runsTo_event hh rfl rfl hstopd (hcomplete _ rfl) ?_
  simp only [List.append_assoc, List.cons_append, List.nil_append]
  rfl

/-! ### Chip-select lines and exchanges (R180, R189, R211, R212) -/

theorem exec_uSelect (d : Device) (s : State) : exec (.uSelect d.bits) s = .next (selectLine d s) := by
  simp only [exec, execUSelect, device_ofBits_bits]

theorem exec_uDeselect (d : Device) (s : State) : exec (.uDeselect d.bits) s = .next (deselectLine d s) := by
  simp only [exec, execUDeselect, device_ofBits_bits]

/-- Settles O25: what is selected decides. -/
theorem selectAssertsOneLineOrConflicts : Obligations.SelectAssertsOneLineOrConflicts := by
  refine fun s d => ⟨by cases d <;> rfl, fun hs => ?_, fun hs => ?_⟩
  · rw [exec_uSelect, selectLine_free d s hs]
  · rw [exec_uSelect, selectLine_conflict d s hs]
    rfl

/-- Settles O26: a deselect writes one line. -/
theorem deselectClearsOneLine : Obligations.DeselectClearsOneLine :=
  fun s d => ⟨by cases d <;> rfl, exec_uDeselect d s, perDevice_get_set s.csSel d false,
    fun e he => perDevice_get_set_other s.csSel d e false he⟩

/-- Settles O27: index 3 names no device. -/
theorem selectOfDeviceThreeIsRefused : Obligations.SelectOfDeviceThreeIsRefused := fun _ => ⟨rfl, rfl⟩

/-- The first exchange of a frame sends the command byte; no cell acts. -/
theorem exchangeByte_opened {s : State} (b : Byte) (h : s.spiFrame = .opened) : exchangeByte b s = { s with
    spiRx := some (Config.freeByte s.draws)
    spiLog := s.spiLog ++ [.xfer b (Config.freeByte s.draws)]
    spiFrame := .commanded (cmdDir b) (cmdChan b) (cmdReg b)
    draws := s.draws + 1 } := by
  have hc : frameCell s = none := by simp only [frameCell, h]
  simp only [exchangeByte, exchangeReply_of_no_cell s hc, exchangeStore_of_no_cell b s hc, h, exchangePhase]

/-- Settles O24: the command byte carries its direction, channel and register. -/
theorem commandByteOpensItsFrame : Obligations.CommandByteOpensItsFrame := by
  refine fun s c r h => ⟨?_, ?_⟩
  · simp only [exec, execSpiFrameWrite, exchangeByte_opened _ h, cmdDir_cmdByte, cmdChan_cmdByte, cmdReg_cmdByte]
  · simp only [exec, execSpiFrameRead, exchangeByte_opened _ h, cmdDir_cmdByte, cmdChan_cmdByte, cmdReg_cmdByte]

/-- Settles O29: under Unconstrained neither the reply nor the store looks at a cell. -/
theorem xferUnderUnconstrainedDrawsItsReply : Obligations.XferUnderUnconstrainedDrawsItsReply := by
  intro s b h
  simp only [exec, execUXfer, exchangeByte, exchangeReply_unconstrained s h, exchangeStore_unconstrained b s h]
  rfl

section
variable {s : State} {d : Device} {c : Chan} {r : Reg} (hm : s.options.bridgeModel = .testDouble)
  (hsel : selectedSet s = [d])
include hm hsel

theorem exchangeReply_write (hp : s.spiFrame = .commanded .write c r) :
    exchangeReply s = Config.freeByte s.draws := by
  simp only [exchangeReply, hm, frameCell_commanded s d _ c r hp hsel]

theorem exchangeReply_read (hp : s.spiFrame = .commanded .read c r) :
    exchangeReply s = (Memory.read s.bridgeStore (cellAddr d c r)).getD (Config.freeByte s.draws) := by
  simp only [exchangeReply, hm, frameCell_commanded s d _ c r hp hsel]

theorem exchangeStore_write (b : Byte) (hp : s.spiFrame = .commanded .write c r) :
    exchangeStore b s = Memory.write s.bridgeStore (cellAddr d c r) b := by
  simp only [exchangeStore, hm, frameCell_commanded s d _ c r hp hsel]

theorem exchangeStore_read (b : Byte) (hp : s.spiFrame = .commanded .read c r) :
    exchangeStore b s = s.bridgeStore := by
  simp only [exchangeStore, hm, frameCell_commanded s d _ c r hp hsel]

end

/-- Settles O30: the direction decides between writing the cell and replying it. -/
theorem secondExchangeActsOnTheTestDouble : Obligations.SecondExchangeActsOnTheTestDouble := by
  refine fun s d c r b hm hsel => ⟨fun hp => ⟨_, rfl, ?_, ?_, fun a ha => ?_⟩, fun hp => ?_⟩
  · simp only [exchangeByte, exchangeReply_write hm hsel hp, hp, exchangePhase]
  · rw [exchangeByte_bridgeStore, exchangeStore_write hm hsel b hp, Memory.read_write_same]
  · rw [exchangeByte_bridgeStore, exchangeStore_write hm hsel b hp, Memory.read_write_other _ _ _ _ ha]
  · simp only [exec, execUXfer, exchangeByte, exchangeReply_read hm hsel hp, exchangeStore_read hm hsel b hp, hp,
      exchangePhase]

/-! ### After reset -/

/-- Settles O50: nothing is selected, stored, recorded, under way or to come. -/
theorem resetMeetsTheInvariants : Obligations.ResetMeetsTheInvariants :=
  ⟨Nat.zero_le 1, reset_store_wf, iff_of_false nofun (fun h => h rfl), List.nodup_nil,
    ⟨absurd rfl, absurd rfl, absurd rfl, nofun, nofun⟩,
    ⟨nofun, fun _ => ⟨rfl, rfl⟩, listMatchesLines_done rfl rfl⟩, rfl, rfl⟩

end Sys2Proof.Machine
end


section
/-! Parameters and texts: the line-status mask (spec/10_state.md R50), the counts of a bring-up
(spec/43_uart_configurator.md R246), lines of text and the boot sequence (spec/30_encoding.md R121, R122, R248). -/

namespace Sys2Proof.Machine

/-! ### The line-status mask (R50) -/

/-- A bit number left over by fewer than eight used ones is made fresh. -/
theorem freshBit_not_mem (used : List (Fin 8)) (x : Fin 8) (h : used.length < 8) : freshBit used x ∉ used := by
  unfold freshBit
  split
  · obtain ⟨y, hy⟩ : ∃ y, y ∉ used := by
      by_contra hall
      push Not at hall
      have hle := ((List.nodup_finRange 8).subperm fun y _ => hall y).length_le
      rw [List.length_finRange] at hle
      omega
    have hne : (List.finRange 8).filter (fun y => decide (y ∉ used)) ≠ [] :=
      List.ne_nil_of_mem (List.mem_filter.2 ⟨List.mem_finRange y, by simpa using hy⟩)
    obtain ⟨z, zs, hz⟩ := List.exists_cons_of_ne_nil hne
    have hmem : z ∈ (List.finRange 8).filter (fun y => decide (y ∉ used)) := hz ▸ List.mem_cons_self
    rw [hz]
    simpa using (List.mem_filter.1 hmem).2
  · assumption

theorem distinctBits_nodup (fe pe oe bi : Fin 8) : (distinctBits fe pe oe bi).Nodup := by
  have hp := freshBit_not_mem [fe] pe (by simp)
  have ho := freshBit_not_mem [fe, freshBit [fe] pe] oe (by simp)
  have hb := freshBit_not_mem [fe, freshBit [fe] pe, freshBit [fe, freshBit [fe] pe] oe] bi (by simp)
  simp only [distinctBits, List.mem_cons, List.not_mem_nil, or_false, not_or, List.nodup_cons, List.nodup_nil,
    not_false_eq_true, and_true] at *
  exact ⟨⟨Ne.symm hp, Ne.symm ho.1, Ne.symm hb.1⟩, ⟨Ne.symm ho.2, Ne.symm hb.2.1⟩, Ne.symm hb.2.2⟩

theorem getLsbD_one_shiftLeft (b n : Fin 8) : ((1#8 : Byte) <<< b.val).getLsbD n.val = decide (n = b) := by
  revert b n; decide

/-- Setting the listed bits one after the other sets exactly them. -/
theorem getLsbD_foldl_bits (bits : List (Fin 8)) (m : Byte) (n : Fin 8) :
    (bits.foldl (fun m b => m ||| (1#8 <<< b.val)) m).getLsbD n.val = (m.getLsbD n.val || decide (n ∈ bits)) := by
  induction bits generalizing m with
  | nil => simp
  | cons b bits ih =>
    simp only [List.foldl_cons, ih, BitVec.getLsbD_or, getLsbD_one_shiftLeft, Bool.or_assoc, List.mem_cons,
      Bool.decide_or]

theorem lsrErrMask_getLsbD (n : Fin 8) : lsrErrMask.getLsbD n.val = decide (n ∈ lsrErrorBits) := by
  rw [lsrErrMask, maskOfBits, getLsbD_foldl_bits, BitVec.getLsbD_zero, Bool.false_or]

/-- Settles O47: the four bits are made distinct one by one, and the mask is made of them. -/
theorem errorMaskHasItsFourDistinctBits : Obligations.ErrorMaskHasItsFourDistinctBits :=
  ⟨rfl, distinctBits_nodup _ _ _ _, lsrErrMask_getLsbD,
    fun x n => by rw [lineErrors, BitVec.getLsbD_and, lsrErrMask_getLsbD]⟩

/-! ### The counts of a bring-up (R246) -/

section
variable (d : Device) (c : Chan) (l : List (Reg × Byte)) (div : Half)

@[simp] theorem countP_isWriteFrame_writeAll : (writeAll d c l).countP HostCall.isWriteFrame = l.length := by
  rw [writeAll, List.countP_map]
  exact congrFun List.countP_true l

@[simp] theorem countP_isDelay_writeAll : (writeAll d c l).countP HostCall.isDelay = 0 := by
  rw [writeAll, List.countP_map]
  exact congrFun List.countP_false l

theorem countP_isWriteFrame_channelCalls : (channelCalls d div c).countP HostCall.isWriteFrame =
    (cfgWrites .channelReset).length + (cfgWrites .clockSources).length + (cfgWrites .pllConfig).length + 2 +
      (cfgWrites .lineFormat).length + (cfgWrites .fifoTriggers).length + (cfgWrites .modeRegisters).length +
      (cfgWrites .flowControl).length + (cfgWrites .interruptEnables).length := by
  simp [channelCalls, channelBringUp, List.countP_cons, HostCall.isWriteFrame]
  omega

theorem countP_isDelay_channelCalls : (channelCalls d div c).countP HostCall.isDelay = 2 := by
  simp [channelCalls, channelBringUp, List.countP_cons, HostCall.isDelay]

/-- A UART_INIT counts four times what a channel counts, but for what its last two calls are. -/
theorem countP_uartInitCalls (p : HostCall → Bool) (n : Nat) (hn : ∀ c, (channelCalls d div c).countP p = n)
    (hm : p (.markConfigured d) = false) (hf : p (.finish .initOk) = false) :
    (uartInitCalls d div).countP p = 4 * n := by
  simp [uartInitCalls, allChannels, List.countP_append, hn, hm, hf]
  omega

/-- A channel's calls are write frames on its device, delays and the record of its divisor. -/
theorem channelCalls_forall {P : HostCall → Prop} (hw : ∀ r v, P (.frameWrite d c r v)) (hd : ∀ id, P (.delay id))
    (hr : P (.recordDivisor d c div)) : ∀ k ∈ channelCalls d div c, P k := by
  simp only [channelCalls, channelBringUp, writeAll, List.forall_mem_append, List.forall_mem_map, List.forall_mem_cons,
    List.not_mem_nil, hw, hd, hr, false_implies, implies_true, and_self]

/-- A UART_INIT adds the setting of the configured flag and the return. -/
theorem uartInitCalls_forall {P : HostCall → Prop} (hw : ∀ c r v, P (.frameWrite d c r v)) (hd : ∀ id, P (.delay id))
    (hr : ∀ c, P (.recordDivisor d c div)) (hm : P (.markConfigured d)) (hf : P (.finish .initOk)) :
    ∀ k ∈ uartInitCalls d div, P k := by
  have hall : ∀ k ∈ allChannels.flatMap (channelCalls d div), P k := by
    intro k hk
    obtain ⟨c, -, hk⟩ := List.mem_flatMap.1 hk
    exact channelCalls_forall d c div (hw c) hd (hr c) k hk
  exact List.forall_mem_append.2 ⟨hall, List.forall_mem_cons.2 ⟨hm, List.forall_mem_singleton.2 hf⟩⟩

end

theorem cfgWrites_length_pos (k : Config.CfgStep) : 0 < (cfgWrites k).length := Nat.succ_pos _

/-- Settles O41: four equal channels, each with at least ten writes, as no list is empty. -/
theorem bringUpFrameCounts : Obligations.BringUpFrameCounts := by
  intro d div
  have hwrites := countP_uartInitCalls d div HostCall.isWriteFrame _
    (fun c => countP_isWriteFrame_channelCalls d c div) rfl rfl
  refine ⟨hwrites, ?_, countP_uartInitCalls d div HostCall.isDelay 2
    (fun c => countP_isDelay_channelCalls d c div) rfl rfl, List.countP_eq_zero.2 ?_, ?_⟩
  · have hpos := cfgWrites_length_pos
    have h1 := hpos .channelReset
    have h2 := hpos .clockSources
    have h3 := hpos .pllConfig
    have h4 := hpos .lineFormat
    have h5 := hpos .fifoTriggers
    have h6 := hpos .modeRegisters
    have h7 := hpos .flowControl
    have h8 := hpos .interruptEnables
    omega
  · exact uartInitCalls_forall d div (fun _ _ _ => nofun) (fun _ => nofun) (fun _ => nofun) nofun nofun
  · exact uartInitCalls_forall d div (fun _ _ _ => .inr rfl) (fun _ => .inl rfl) (fun _ => .inl rfl) (.inl rfl) (.inl rfl)

/-! ### Texts (R121, R122, R248) -/

theorem decodeHost_hostWordOf_uartSendchar (d : BitVec 2) (c : Chan) (b : Byte) :
    decodeHost (hostWordOf (.uartSendchar d c b)) = .ok (.uartSendchar d c b) :=
  decodeHost_of_encode rfl rfl

theorem decodeHost_hostWordOf_uartInit (d : BitVec 2) (rate : Rate) :
    decodeHost (hostWordOf (.uartInit d rate)) = .ok (.uartInit d rate) :=
  decodeHost_of_encode rfl rfl

/-- Settles O48: the fixed lines by reading them; `uart.puts` and the boot sequence by the words of their operations. -/
theorem textLinesStandForTheirWords : Obligations.TextLinesStandForTheirWords := by
  refine ⟨by decide, by decide, by decide, by decide, by decide, fun d c bs => ?_, ?_⟩
  · simp only [AsmLine.words, AsmLine.instrs, List.map_map]
    exact List.map_congr_left fun b _ => decodeHost_hostWordOf_uartSendchar d.bits c b
  · simp only [bootWords, allDevices, AsmLine.words, AsmLine.instrs, List.map_cons, List.map_nil, List.flatMap_cons,
      List.flatMap_nil, List.cons_append, List.nil_append, decodeHost_hostWordOf_uartInit]
    rfl

end Sys2Proof.Machine
end


section
/-! Bridge operations from their word to their return (spec/41_spi_register_access.md R181 to R190;
spec/43_uart_configurator.md R233, R234, R247, R249; spec/44_serial_port.md R260 to R267). -/

namespace Sys2Proof.Machine

/-! ### The start of an operation (R181, R184, R185, R233, R260 to R267) -/

/-- A port operation that passes its checks runs its body. -/
theorem checkPort_pass {s : State} {dev : Device} (w : Word) (body : Device → State) (hb : s.spiBusy = false)
    (hc : s.devConfigured.get dev = true) : checkPort w dev.bits s body = body dev := by
  rw [checkPort, checkBridge_pass w dev s _ hb, if_pos hc]

section
variable {s : State} {d : Device} {c : Chan} {r : Reg} {v : Byte} {rate : Rate} {div : Half} (hb : s.spiBusy = false)
include hb

theorem exec_spiWrite_starts :
    exec (.spiWrite d.bits c r v) s = .next (beginProcedure (spiWriteCalls d c r v) s) :=
  congrArg _ (checkBridge_pass _ d s _ hb)

theorem exec_spiRead_starts :
    exec (.spiRead d.bits c r) s = .next (beginProcedure (spiReadCalls c r) s) :=
  congrArg _ (checkBridge_pass _ d s _ hb)

theorem exec_uartInit_unsupported (hr : baudLookup rate = none) :
    exec (.uartInit d.bits rate) s = .next (giveResult .initUnsupported s) := by
  simp only [exec, execUartInit, checkBridge_pass _ d s _ hb, hr]

theorem exec_uartInit_starts (hr : baudLookup rate = some div) :
    exec (.uartInit d.bits rate) s =
      .next (beginProcedure (uartInitCalls d div) { s with devConfigured := s.devConfigured.set d false }) := by
  simp only [exec, execUartInit, checkBridge_pass _ d s _ hb, hr]

variable (hc : s.devConfigured.get d = true)
include hc

theorem exec_uartSendchar_starts : exec (.uartSendchar d.bits c v) s =
    .next (beginProcedure [.frameWrite d c Config.regThr v, .finish .nothing] s) :=
  congrArg _ (checkPort_pass _ _ hb hc)

theorem exec_uartRecvchar_starts :
    exec (.uartRecvchar d.bits c) s = .next (beginProcedure (recvCalls d c) s) :=
  congrArg _ (checkPort_pass _ _ hb hc)

theorem exec_uartAvail_starts : exec (.uartAvail d.bits c) s =
    .next (beginProcedure [.frameRead d c Config.regRxlvl, .finish .nonZero] s) :=
  congrArg _ (checkPort_pass _ _ hb hc)

theorem exec_uartGeterr_starts : exec (.uartGeterr d.bits c) s =
    .next (beginProcedure [.frameRead d c Config.regLsr, .finish .maskedErrors] s) :=
  congrArg _ (checkPort_pass _ _ hb hc)

theorem exec_uartClrerr_starts : exec (.uartClrerr d.bits c) s =
    .next (beginProcedure [.frameRead d c Config.regLsr, .finish .nothing] s) :=
  congrArg _ (checkPort_pass _ _ hb hc)

end

/-- Settles O33: past its checks the operation starts its procedure. -/
theorem spiWriteStartsItsFrame : Obligations.SpiWriteStartsItsFrame :=
  fun _ _ _ _ _ hb => exec_spiWrite_starts hb

/-- Settles O34: past its checks the operation starts its procedure, which names no DEV. -/
theorem spiReadStartsOnTheHardCodedDevice : Obligations.SpiReadStartsOnTheHardCodedDevice :=
  fun _ _ _ _ hb => exec_spiRead_starts hb

/-- Settles O40: the table's answer decides; the first call is the first write of list 1 on channel 0. -/
theorem uartInitStartsOrReportsUnsupported : Obligations.UartInitStartsOrReportsUnsupported :=
  fun _ _ _ hb => ⟨exec_uartInit_unsupported hb, fun _ => exec_uartInit_starts hb⟩

/-- Settles O43: past its checks each operation starts its procedure. -/
theorem portOperationsStartTheirFrames : Obligations.PortOperationsStartTheirFrames :=
  fun _ _ _ _ hb hc => ⟨exec_uartSendchar_starts hb hc, exec_uartRecvchar_starts hb hc, exec_uartAvail_starts hb hc,
    exec_uartGeterr_starts hb hc, exec_uartClrerr_starts hb hc⟩

/-! ### The decision of UART_RECVCHAR (R264) -/

theorem runCalls_testLevel_zero {s : State} (calls : List HostCall) (h : s.spiRx = some 0#8) :
    runCalls (.testLevel :: calls) s = endProcedure (.byte 0#8) s := by
  simp only [runCalls, rxOrFree, h, Option.getD_some, if_true]

theorem runCalls_testLevel_nonzero {s : State} (calls : List HostCall) {lvl : Byte} (h : s.spiRx = some lvl)
    (hne : lvl ≠ 0#8) : runCalls (.testLevel :: calls) s = { s with hostOp := calls } := by
  simp only [runCalls, rxOrFree, h, Option.getD_some, if_neg hne]

section
variable {n : Nat} {s t u : State} {rest : List Turn} {calls : List HostCall} (hh : s.halted = false)
  (ha : s.agenda = .host :: rest) (hb : s.spiBusy = true) (hq : s.spiSeq = []) (ho : s.hostOp = calls)
include hh ha hb hq ho

/-- A turn of the blocked host carries out its next call. -/
theorem step_call : step s = .next (runCalls calls { s with agenda := rest }) := by
  subst ho
  exact step_host_resumes s rest hh ha hb hq

theorem runsTo_call (hc : runCalls calls { s with agenda := rest } = t) (hrun : runsTo n t u) : runsTo (n + 1) s u :=
  runsTo_step ((step_call hh ha hb hq ho).trans (congrArg _ hc)) hrun

end

/-- Settles O45: the level decides what the first turn does; the second hands over the read frame. -/
theorem recvcharDecidesOnTheLevel : Obligations.RecvcharDecidesOnTheLevel := by
  intro s d c lvl rest hh ha hb hq hrx ho
  refine ⟨fun hz => ?_, fun hne => ?_⟩
  · subst hz
    exact (step_call hh ha hb hq ho).trans (congrArg _ (runCalls_testLevel_zero _ hrx))
  · refine runsTo_call hh ha hb hq ho (runCalls_testLevel_nonzero _ hrx hne) ?_
    exact runsTo_call hh rfl hb hq rfl rfl (runsTo_zero _)

end Sys2Proof.Machine
end


section
/-! A whole frame, and the calls of a procedure carried out one after the other (spec/41_spi_register_access.md R181 to
R190). -/

namespace Sys2Proof.Machine

/-! ### One step of the sequencer at the head of a run -/

section
variable {n : Nat} {s u : State} {rest : List Turn} {us : List Half} (hh : s.halted = false)
  (ha : s.agenda = .sequencer :: rest)
include hh ha

theorem runsTo_select {d : Device} (hq : s.spiSeq = selectWord d.bits :: us) (hl : linesSelected s.csSel = [])
    (hrun : runsTo n { s with
      agenda := rest, spiSeq := us, csSel := s.csSel.set d true, spiLog := s.spiLog ++ [.select d]
      spiFrame := .opened } u) : runsTo (n + 1) s u :=
  runsTo_step (step_select s rest d us hh ha hq hl) hrun

theorem runsTo_delay {id : DelayId} (hq : s.spiSeq = delayWord id :: us)
    (hrun : runsTo n { s with agenda := rest, spiSeq := us, spiLog := s.spiLog ++ [.delay id] } u) :
    runsTo (n + 1) s u :=
  runsTo_step (step_delay s rest id us hh ha hq) hrun

theorem runsTo_xfer_opened {b : Byte} (hq : s.spiSeq = xferWord b :: us) (hf : s.spiFrame = .opened)
    (hrun : runsTo n { s with
      agenda := rest, spiSeq := us, spiRx := some (Config.freeByte s.draws)
      spiLog := s.spiLog ++ [.xfer b (Config.freeByte s.draws)]
      spiFrame := .commanded (cmdDir b) (cmdChan b) (cmdReg b), draws := s.draws + 1 } u) : runsTo (n + 1) s u :=
  runsTo_step (step_xfer_opened s rest b us hh ha hq hf) hrun

theorem runsTo_xfer {b : Byte} (hq : s.spiSeq = xferWord b :: us)
    (hrun : runsTo n { s with
      agenda := rest, spiSeq := us, spiRx := some (exchangeReply s), spiLog := s.spiLog ++ [.xfer b (exchangeReply s)]
      spiFrame := exchangePhase b s.spiFrame, bridgeStore := exchangeStore b s, draws := s.draws + 1 } u) :
    runsTo (n + 1) s u :=
  runsTo_step (step_xfer s rest b us hh ha hq) hrun

theorem runsTo_deselect {d : Device} (hq : s.spiSeq = deselectWord d.bits :: us)
    (hrun : runsTo n { s with
      agenda := rest, spiSeq := us, csSel := s.csSel.set d false, spiLog := s.spiLog ++ [.deselect d]
      spiFrame := if (linesSelected (s.csSel.set d false)).isEmpty then .closed else s.spiFrame } u) :
    runsTo (n + 1) s u :=
  runsTo_step (step_deselect s rest d us hh ha hq) hrun

end

/-! ### A frame (R182, R183, R189) -/

/-- What the second exchange of a frame on `d` that sent the command byte `b1` looks at. -/
def inFrame (d : Device) (b1 : Byte) (s : State) : State :=
  { s with
    csSel := s.csSel.set d true
    spiFrame := .commanded (cmdDir b1) (cmdChan b1) (cmdReg b1)
    draws := s.draws + 1 }

/-- The byte received in a frame's second exchange. -/
def frameReply (d : Device) (b1 : Byte) (s : State) : Byte := exchangeReply (inFrame d b1 s)

/-- A whole frame that sends `b1` and `b2` to `d`. -/
def afterFrame (d : Device) (b1 b2 : Byte) (s : State) : State :=
  { s with
    spiRx := some (frameReply d b1 s)
    spiLog := s.spiLog ++ [.select d, .delay .tCss, .xfer b1 (Config.freeByte s.draws), .xfer b2 (frameReply d b1 s),
      .delay .tCsh, .deselect d]
    spiFrame := .closed
    bridgeStore := exchangeStore b2 (inFrame d b1 s)
    draws := s.draws + 2 }

theorem perDevice_set_set {α : Type} (x : PerDevice α) (d : Device) (v w : α) : (x.set d v).set d w = x.set d w := by
  cases d <;> rfl

theorem perDevice_set_get {α : Type} (x : PerDevice α) (d : Device) : x.set d (x.get d) = x := by
  cases d <;> rfl

theorem mem_allDevices (d : Device) : d ∈ allDevices := by
  cases d <;> decide

/-- Selecting and deselecting a line that was not selected changes no line. -/
theorem csSel_select_deselect (cs : PerDevice Bool) (d : Device) (h : linesSelected cs = []) :
    (cs.set d true).set d false = cs := by
  have hd : cs.get d = false := Bool.eq_false_iff.2 (List.filter_eq_nil_iff.1 h d (mem_allDevices d))
  rw [perDevice_set_set, ← hd, perDevice_set_get]

/-- Six turns of the sequencer carry out a whole frame. -/
theorem frame_runs {s : State} {d : Device} {b1 b2 : Byte} {rest : List Turn} (hh : s.halted = false)
    (hsel : selectedSet s = []) (hq : s.spiSeq = frameWords d b1 b2)
    (ha : s.agenda = List.replicate 6 .sequencer ++ rest) :
    runsTo 6 s { afterFrame d b1 b2 s with agenda := rest, spiSeq := [] } := by
  have hlines : linesSelected s.csSel = [] := hsel
  refine runsTo_select hh ha hq hsel ?_
  refine runsTo_delay hh rfl rfl ?_
  refine runsTo_xfer_opened hh rfl rfl rfl ?_
  refine runsTo_xfer hh rfl rfl ?_
  refine runsTo_delay hh rfl rfl ?_
  refine runsTo_deselect hh rfl rfl ?_
  simp only [csSel_select_deselect s.csSel d hlines, hlines, List.isEmpty_nil, if_true, List.append_assoc,
    List.cons_append, List.nil_append]
  rfl

/-! ### The cells of a frame (R189) -/

theorem selectedSet_inFrame {d : Device} {s : State} (b1 : Byte) (h : selectedSet s = []) :
    selectedSet (inFrame d b1 s) = [d] :=
  linesSelected_set_true s.csSel d h

theorem frameCell_inFrame {d : Device} {s : State} (b1 : Byte) (h : selectedSet s = []) :
    frameCell (inFrame d b1 s) = some (cmdDir b1, cellAddr d (cmdChan b1) (cmdReg b1)) :=
  frameCell_commanded _ d _ _ _ rfl (selectedSet_inFrame b1 h)

/-- A frame leaves every cell but its own alone. -/
theorem exchangeStore_inFrame_other {d : Device} {s : State} {b1 b2 : Byte} {a : Nat} (h : selectedSet s = [])
    (ha : a ≠ cellAddr d (cmdChan b1) (cmdReg b1)) :
    Memory.read (exchangeStore b2 (inFrame d b1 s)) a = Memory.read s.bridgeStore a := by
  unfold exchangeStore
  rw [frameCell_inFrame b1 h]
  split
  · next heq =>
    obtain ⟨-, rfl⟩ := Prod.mk.inj (Option.some.inj heq)
    exact Memory.read_write_other _ _ _ _ ha
  · rfl

/-- A read frame changes no cell. -/
theorem exchangeStore_inFrame_of_read {d : Device} {s : State} {b1 b2 : Byte} (h : selectedSet s = [])
    (hr : cmdDir b1 = .read) : exchangeStore b2 (inFrame d b1 s) = s.bridgeStore := by
  simp only [exchangeStore, frameCell_inFrame b1 h, hr]
  cases (inFrame d b1 s).options.bridgeModel <;> rfl

/-- Settles O32: the run is `frame_runs`; only the frame's own cell is under its second exchange. -/
theorem frameRunsToItsEnd : Obligations.FrameRunsToItsEnd := by
  intro s d b1 b2 rest hh hsel hq ha
  exact ⟨_, _, _, frame_runs hh hsel hq ha, rfl, fun a hne => exchangeStore_inFrame_other hsel hne,
    fun hm => exchangeStore_unconstrained b2 (inFrame d b1 s) hm, fun hr => exchangeStore_inFrame_of_read hsel hr⟩

/-! ### The calls of a procedure -/

/-- A call that is a frame, a delay or a record, carried out whole; a decision and a return are not such calls. -/
def afterCall (k : HostCall) (s : State) : State :=
  match k with
  | .frameWrite d c r v => afterFrame d (cmdByte .write c r) v s
  | .frameRead d c r => afterFrame d (cmdByte .read c r) s.options.dummyByte s
  | .delay id => logDelay id s
  | .recordDivisor d c div => { s with chDivisor := s.chDivisor.set d ((s.chDivisor.get d).set c (some div)) }
  | .markConfigured d => { s with devConfigured := s.devConfigured.set d true }
  | .testLevel => s
  | .finish _ => s

/-- Neither a decision nor a return. -/
def HostCall.isPlain : HostCall → Bool
  | .testLevel => false
  | .finish _ => false
  | _ => true

/-- The calls carried out in order. -/
def afterCalls (calls : List HostCall) (s : State) : State := calls.foldl (fun s k => afterCall k s) s

@[simp] theorem afterCalls_nil (s : State) : afterCalls [] s = s := rfl

@[simp] theorem afterCalls_cons (k : HostCall) (calls : List HostCall) (s : State) :
    afterCalls (k :: calls) s = afterCalls calls (afterCall k s) := rfl

theorem afterCalls_append (calls more : List HostCall) (s : State) :
    afterCalls (calls ++ more) s = afterCalls more (afterCalls calls s) := List.foldl_append

/-- The block between two calls of a procedure: nothing for the sequencer, nothing selected. -/
structure BetweenCalls (s : State) : Prop where
  running : s.halted = false
  busy : s.spiBusy = true
  listDone : s.spiSeq = []
  unselected : selectedSet s = []

/-- Nothing but the exchanges' traces, the cells and the channel table differs. -/
def OnlyTheBus (s t : State) : Prop :=
  t = { s with
    spiRx := t.spiRx, spiLog := t.spiLog, spiFrame := t.spiFrame, devConfigured := t.devConfigured
    chDivisor := t.chDivisor, bridgeStore := t.bridgeStore, draws := t.draws }

theorem onlyTheBus_trans {s t u : State} (h : OnlyTheBus s t) (h' : OnlyTheBus t u) : OnlyTheBus s u :=
  h'.trans (by rw [h])

theorem onlyTheBus_afterCall (k : HostCall) (s : State) : OnlyTheBus s (afterCall k s) := by
  cases k <;> rfl

theorem onlyTheBus_afterCalls (calls : List HostCall) (s : State) : OnlyTheBus s (afterCalls calls s) := by
  induction calls generalizing s with
  | nil => rfl
  | cons k calls ih => exact onlyTheBus_trans (onlyTheBus_afterCall k s) (ih _)

theorem BetweenCalls.of_onlyTheBus {s t : State} (h : BetweenCalls s) (ht : OnlyTheBus s t) : BetweenCalls t := by
  obtain ⟨hh, hb, hq, hsel⟩ := h
  constructor <;> rw [ht] <;> assumption

/-- The turns of a call carry it out. -/
theorem call_runs {s : State} {k : HostCall} {calls : List HostCall} {rest : List Turn} (h : BetweenCalls s)
    (hk : k.isPlain = true) (ho : s.hostOp = k :: calls) (ha : s.agenda = turnsOf [k] ++ rest) :
    runsTo (turnsOf [k]).length s { afterCall k s with agenda := rest, hostOp := calls, spiSeq := [] } := by
  obtain ⟨hh, hb, hq, hsel⟩ := h
  cases k with
  | frameWrite d c r v =>
    refine runsTo_call hh ha hb hq ho rfl ?_
    exact frame_runs (s := { s with agenda := _, spiSeq := frameWriteWords d c r v, hostOp := calls }) hh hsel rfl rfl
  | frameRead d c r =>
    refine runsTo_call hh ha hb hq ho rfl ?_
    exact frame_runs (s := { s with agenda := _, spiSeq := frameReadWords d c r _, hostOp := calls }) hh hsel rfl rfl
  | delay id =>
    refine runsTo_call hh ha hb hq ho rfl ?_
    exact runsTo_delay hh rfl rfl (runsTo_zero _)
  | recordDivisor d c div =>
    rw [← hq]
    exact runsTo_call hh ha hb hq ho rfl (runsTo_zero _)
  | markConfigured d =>
    rw [← hq]
    exact runsTo_call hh ha hb hq ho rfl (runsTo_zero _)
  | testLevel => cases hk
  | finish k => cases hk

/-- What is to come makes no difference to a call carried out whole. -/
theorem afterCall_schedule (k : HostCall) (s : State) (ag : List Turn) (o : List HostCall) (q : List Half) :
    afterCall k { s with agenda := ag, hostOp := o, spiSeq := q } =
      { afterCall k s with agenda := ag, hostOp := o, spiSeq := q } := by
  cases k <;> rfl

theorem afterCalls_schedule (calls : List HostCall) (s : State) (ag : List Turn) (o : List HostCall) (q : List Half) :
    afterCalls calls { s with agenda := ag, hostOp := o, spiSeq := q } =
      { afterCalls calls s with agenda := ag, hostOp := o, spiSeq := q } := by
  induction calls generalizing s with
  | nil => rfl
  | cons k calls ih => rw [afterCalls_cons, afterCalls_cons, afterCall_schedule, ih]

theorem turnsOf_append (calls more : List HostCall) : turnsOf (calls ++ more) = turnsOf calls ++ turnsOf more :=
  List.flatMap_append

theorem turnsOf_eq_host_cons {calls : List HostCall} (h : calls ≠ []) : ∃ turns, turnsOf calls = .host :: turns := by
  obtain ⟨k, more, rfl⟩ := List.exists_cons_of_ne_nil h
  exact ⟨_, rfl⟩

/-- The turns of plain calls carry them out one after the other. -/
theorem calls_run {s : State} {calls more : List HostCall} {rest : List Turn} (h : BetweenCalls s)
    (hk : ∀ k ∈ calls, k.isPlain = true) (ho : s.hostOp = calls ++ more) (ha : s.agenda = turnsOf calls ++ rest) :
    runsTo (turnsOf calls).length s { afterCalls calls s with agenda := rest, hostOp := more, spiSeq := [] } := by
  induction calls generalizing s with
  | nil =>
    obtain rfl : s.hostOp = more := ho
    obtain rfl : s.agenda = rest := ha
    rw [← h.listDone]
    exact runsTo_zero s
  | cons k calls ih =>
    obtain ⟨hk, hcalls⟩ := List.forall_mem_cons.1 hk
    have hturns : turnsOf (k :: calls) = turnsOf [k] ++ turnsOf calls := turnsOf_append [k] calls
    rw [hturns, List.append_assoc] at ha
    rw [hturns, List.length_append]
    refine runsTo_append (call_runs h hk ho ha) ?_
    obtain ⟨hh, hb, -, hsel⟩ := h.of_onlyTheBus (onlyTheBus_afterCall k s)
    have hrun := ih (s := { afterCall k s with
      agenda := turnsOf calls ++ rest, hostOp := calls ++ more, spiSeq := [] }) ⟨hh, hb, rfl, hsel⟩ hcalls rfl rfl
    rwa [afterCalls_schedule] at hrun

/-- The turns of a procedure of plain calls and a return carry it out. -/
theorem procedure_runs {s : State} {calls : List HostCall} {k : ReturnKind} {rest : List Turn} (h : BetweenCalls s)
    (hk : ∀ k ∈ calls, k.isPlain = true) (ho : s.hostOp = calls ++ [.finish k])
    (ha : s.agenda = turnsOf (calls ++ [.finish k]) ++ rest) :
    runsTo (turnsOf (calls ++ [.finish k])).length s (endProcedure (resultOf k (rxOrFree (afterCalls calls s)))
      { afterCalls calls s with agenda := rest, spiSeq := [] }) := by
  rw [turnsOf_append, List.append_assoc] at ha
  rw [turnsOf_append, List.length_append]
  refine runsTo_append (calls_run h hk ho ha) ?_
  obtain ⟨hh, hb, -, -⟩ := h.of_onlyTheBus (onlyTheBus_afterCalls calls s)
  exact runsTo_call hh rfl hb rfl rfl rfl (runsTo_zero _)

/-! ### Issuing an operation -/

/-- A procedure that has a call does not look at what the host had left to do. -/
theorem runCalls_hostOp {calls : List HostCall} (h : calls ≠ []) (s : State) (o : List HostCall) :
    runCalls calls { s with hostOp := o } = runCalls calls s := by
  cases calls with
  | nil => exact absurd rfl h
  | cons k calls =>
    cases k with
    | testLevel =>
      have hrx : rxOrFree { s with hostOp := o } = rxOrFree s := rfl
      simp only [runCalls, hrx]
      split <;> rfl
    | _ => rfl

/-- The block after an operation's checks, its host blocked before its first call. -/
def blockedBefore (calls : List HostCall) (ws : List Word) (conf : PerDevice Bool) (s : State) : State :=
  { s with spiBusy := true, hostOp := calls, hostWords := ws, devConfigured := conf }

theorem runsTo_of_step_eq {n : Nat} {s s' t : State} (h : step s = step s') (hrun : runsTo (n + 1) s' t) :
    runsTo (n + 1) s t := by
  simp only [runsTo, Host.Core.run, core, h] at hrun ⊢
  exact hrun

section
variable {n : Nat} {s t : State} {i : Instr} {w : Word} {ws : List Word} {calls : List HostCall}
  {conf : PerDevice Bool} (hh : s.halted = false) (hb : s.spiBusy = false) (hq : s.spiSeq = [])
  (hw : encode i = .host w) (hwf : WellFormed i = true) (hws : s.hostWords = w :: ws)
  (hi : ∀ ag, exec i { s with agenda := ag, hostWords := ws } =
    .next (beginProcedure calls { s with agenda := ag, hostWords := ws, devConfigured := conf }))
include hh hb hq hw hwf hws hi

/-- The turn that issues an operation carries out its first call, as a turn of the host blocked before it would. -/
theorem runsTo_issue {rest : List Turn} (ha : s.agenda = .host :: rest) (hne : calls ≠ [])
    (hrun : runsTo (n + 1) (blockedBefore calls ws conf s) t) : runsTo (n + 1) s t := by
  refine runsTo_of_step_eq ?_ hrun
  have hissue := (step_host_issues s rest w ws i hh ha hb hws (decodeHost_of_encode hwf hw)).trans (hi rest)
  have hcall := step_call (s := blockedBefore calls ws conf s) (calls := calls) hh ha rfl hq rfl
  rw [hissue, hcall]
  exact congrArg _ (runCalls_hostOp hne _ calls).symm

/-- An operation of plain calls and a return, from its word to its return. -/
theorem operation_runs {k : ReturnKind} {plain : List HostCall} {rest : List Turn}
    (hcalls : calls = plain ++ [.finish k]) (hsel : selectedSet s = []) (hk : ∀ k ∈ plain, k.isPlain = true)
    (ha : s.agenda = turnsOf calls ++ rest) :
    runsTo (turnsOf calls).length s
      (endProcedure (resultOf k (rxOrFree (afterCalls plain (blockedBefore calls ws conf s))))
        { afterCalls plain (blockedBefore calls ws conf s) with agenda := rest, spiSeq := [] }) := by
  subst hcalls
  have hne : plain ++ [.finish k] ≠ [] := List.append_ne_nil_of_right_ne_nil _ (List.cons_ne_nil _ _)
  have hrun := procedure_runs (s := blockedBefore (plain ++ [.finish k]) ws conf s) ⟨hh, rfl, hq, hsel⟩ hk rfl ha
  obtain ⟨turns, hturns⟩ := turnsOf_eq_host_cons hne
  rw [hturns] at hrun ha ⊢
  exact runsTo_issue hh hb hq hw hwf hws hi ha hne hrun
end

end Sys2Proof.Machine
end


section
/-! The operations of one frame and UART_RECVCHAR from their word to their return (spec/41_spi_register_access.md R184 to
R190; spec/44_serial_port.md R262 to R267). -/

namespace Sys2Proof.Machine

/-! ### What the test double replies (R189) -/

section
variable {s : State} {d : Device} {c : Chan} {r : Reg} {b : Byte} (hm : s.options.bridgeModel = .testDouble)
  (hsel : selectedSet s = [])
include hm hsel

theorem frameReply_of_cell (hcell : Memory.read s.bridgeStore (cellAddr d c r) = some b) :
    frameReply d (cmdByte .read c r) s = b := by
  have hp : (inFrame d (cmdByte .read c r) s).spiFrame = .commanded .read c r := by simp [inFrame]
  have hreply := exchangeReply_read (s := inFrame d (cmdByte .read c r) s) hm (selectedSet_inFrame _ hsel) hp
  rw [frameReply, hreply]
  exact (congrArg (Option.getD · _) hcell).trans rfl

theorem afterFrame_write_store (v : Byte) :
    (afterFrame d (cmdByte .write c r) v s).bridgeStore = Memory.write s.bridgeStore (cellAddr d c r) v := by
  have hp : (inFrame d (cmdByte .write c r) s).spiFrame = .commanded .write c r := by simp [inFrame]
  exact exchangeStore_write (s := inFrame d (cmdByte .write c r) s) hm (selectedSet_inFrame _ hsel) v hp

end

/-- A write frame leaves every cell but its own alone. -/
theorem afterFrame_write_other {s : State} {d : Device} {c : Chan} {r : Reg} (v : Byte) {a : Nat}
    (hsel : selectedSet s = []) (ha : a ≠ cellAddr d c r) :
    Memory.read (afterFrame d (cmdByte .write c r) v s).bridgeStore a = Memory.read s.bridgeStore a :=
  exchangeStore_inFrame_other hsel (by simpa using ha)

/-- A read frame leaves the store alone. -/
theorem afterFrame_read_store {s : State} {d : Device} {c : Chan} {r : Reg} (b2 : Byte) (hsel : selectedSet s = []) :
    (afterFrame d (cmdByte .read c r) b2 s).bridgeStore = s.bridgeStore :=
  exchangeStore_inFrame_of_read hsel (cmdDir_cmdByte .read c r)

/-! ### SPI_WRITE and SPI_READ -/

/-- The block after an operation of one frame that sent `b1` and `b2` to `d`. -/
def afterOperation (d : Device) (b1 b2 : Byte) (k : ReturnKind) (ws : List Word) (rest : List Turn) (s : State) : State :=
  { afterFrame d b1 b2 s with
    agenda := rest, hostWords := ws, hostOp := [], spiBusy := false, spiSeq := []
    results := s.results ++ [resultOf k (frameReply d b1 s)] }

section
variable {s : State} {d : Device} {c : Chan} {r : Reg} {v : Byte} {ws : List Word} {w : Word} {rest : List Turn}
  (hh : s.halted = false) (hb : s.spiBusy = false) (hq : s.spiSeq = []) (hsel : selectedSet s = [])
  (hws : s.hostWords = w :: ws)
include hh hb hq hsel hws

theorem spiWrite_runs (hw : encode (.spiWrite d.bits c r v) = .host w)
    (ha : s.agenda = turnsOf (spiWriteCalls d c r v) ++ rest) :
    runsTo 8 s (afterOperation d (cmdByte .write c r) v .nothing ws rest s) :=
  operation_runs (plain := [.frameWrite d c r v]) (conf := s.devConfigured) hh hb hq hw rfl hws
    (fun _ => exec_spiWrite_starts hb) rfl hsel (List.forall_mem_singleton.2 rfl) ha

theorem spiRead_runs (hw : encode (.spiRead d.bits c r) = .host w)
    (ha : s.agenda = turnsOf (spiReadCalls c r) ++ rest) :
    runsTo 8 s (afterOperation Config.rawReadDevice (cmdByte .read c r) s.options.dummyByte .received ws rest s) :=
  operation_runs (plain := [.frameRead Config.rawReadDevice c r]) (conf := s.devConfigured) hh hb hq hw rfl hws
    (fun _ => exec_spiRead_starts hb) rfl hsel (List.forall_mem_singleton.2 rfl) ha

end

/-- Settles O35: the operation is one write frame. -/
theorem spiWriteRunsToItsEnd : Obligations.SpiWriteRunsToItsEnd := by
  intro s d c r v rest ws w hh hb hq hsel hw hws ha
  refine ⟨_, _, _, spiWrite_runs hh hb hq hsel hws hw ha, rfl, rfl, rfl, rfl, rfl, hsel, rfl, rfl, rfl, sameI2c_refl s,
    rfl, fun hm => ?_, fun a hne => afterFrame_write_other v hsel hne⟩
  exact (congrArg (Memory.read · _) (afterFrame_write_store hm hsel v)).trans (Memory.read_write_same _ _ _)

/-- Settles O36: the operation is one read frame of `RAW_READ_DEVICE`. -/
theorem spiReadRunsToItsEnd : Obligations.SpiReadRunsToItsEnd := by
  intro s d c r rest ws w hh hb hq hsel hw hws ha
  exact ⟨_, _, _, spiRead_runs hh hb hq hsel hws hw ha, rfl, rfl, rfl, rfl, rfl, hsel, rfl, rfl, rfl, sameI2c_refl s, rfl,
    afterFrame_read_store _ hsel, fun v hm hcell => frameReply_of_cell hm hsel hcell⟩

/-- Settles O37: the write leaves the byte in the cell that the read replies. -/
theorem writeThenReadReturnsTheByte : Obligations.WriteThenReadReturnsTheByte := by
  intro s d c r v rest ws w1 w2 hm hh hb hq hsel hw1 hw2 hws ha
  rw [List.append_assoc] at ha
  have hwrite := spiWrite_runs hh hb hq hsel hws hw1 ha
  generalize hu : afterOperation Config.rawReadDevice (cmdByte .write c r) v .nothing (w2 :: ws)
    (turnsOf (spiReadCalls c r) ++ rest) s = u at hwrite
  have hread : runsTo 8 u
      (afterOperation Config.rawReadDevice (cmdByte .read c r) u.options.dummyByte .received ws rest u) := by
    subst hu
    exact spiRead_runs hh rfl rfl hsel rfl hw2 rfl
  have hreply : frameReply Config.rawReadDevice (cmdByte .read c r) u = v := by
    subst hu
    refine frameReply_of_cell hm hsel ?_
    exact (congrArg (Memory.read · _) (afterFrame_write_store hm hsel v)).trans (Memory.read_write_same _ _ _)
  refine ⟨_, runsTo_append hwrite hread, ?_, ?_, rfl⟩
  · rw [afterOperation, hreply, ← hu]
    exact List.append_assoc _ _ _
  · rw [← hu]
    rfl

/-! ### The serial port -/

/-- Settles O44: each operation is one frame; only the bytes sent and what is made of the reply differ. -/
theorem oneFramePortOperationsRunToTheirEnd : Obligations.OneFramePortOperationsRunToTheirEnd := by
  intro s d c b b1 b2 k i rest ws w hmem hh hb hq hsel hc hw hws ha
  have hplain : ∀ call : HostCall, call.isPlain = true → ∀ k ∈ [call], k.isPlain = true :=
    fun _ h => List.forall_mem_singleton.2 h
  simp only [List.mem_cons, Prod.mk.injEq, List.not_mem_nil, or_false] at hmem
  have hrun : runsTo 8 s (afterOperation d b1 b2 k ws rest s) := by
    rcases hmem with ⟨rfl, rfl, rfl, rfl⟩ | ⟨rfl, rfl, rfl, rfl⟩ | ⟨rfl, rfl, rfl, rfl⟩ | ⟨rfl, rfl, rfl, rfl⟩
    · exact operation_runs (plain := [.frameWrite d c Config.regThr b2]) (conf := s.devConfigured) hh hb hq hw rfl hws
        (fun _ => exec_uartSendchar_starts hb hc) rfl hsel (hplain _ rfl) ha
    · exact operation_runs (plain := [.frameRead d c Config.regRxlvl]) (conf := s.devConfigured) hh hb hq hw rfl hws
        (fun _ => exec_uartAvail_starts hb hc) rfl hsel (hplain _ rfl) ha
    · exact operation_runs (plain := [.frameRead d c Config.regLsr]) (conf := s.devConfigured) hh hb hq hw rfl hws
        (fun _ => exec_uartGeterr_starts hb hc) rfl hsel (hplain _ rfl) ha
    · exact operation_runs (plain := [.frameRead d c Config.regLsr]) (conf := s.devConfigured) hh hb hq hw rfl hws
        (fun _ => exec_uartClrerr_starts hb hc) rfl hsel (hplain _ rfl) ha
  refine ⟨_, _, _, hrun, rfl, rfl, ?_, rfl, rfl, hsel, rfl, rfl, rfl, sameI2c_refl s, rfl⟩
  rcases hmem with ⟨-, -, -, rfl⟩ | ⟨-, -, -, rfl⟩ | ⟨-, -, -, rfl⟩ | ⟨-, -, -, rfl⟩ <;> rfl

/-- The block after the level frame of UART_RECVCHAR, before its decision. -/
def afterLevelFrame (d : Device) (c : Chan) (ws : List Word) (rest : List Turn) (s : State) : State :=
  { afterFrame d (cmdByte .read c Config.regRxlvl) s.options.dummyByte s with
    agenda := .host :: (turnsOf [.frameRead d c Config.regRhr, .finish .received] ++ rest)
    hostOp := [.testLevel, .frameRead d c Config.regRhr, .finish .received]
    hostWords := ws
    spiBusy := true
    spiSeq := [] }

/-- The block after the decision of UART_RECVCHAR to read on. -/
def afterDecision (d : Device) (c : Chan) (ws : List Word) (rest : List Turn) (s : State) : State :=
  { afterLevelFrame d c ws rest s with
    agenda := turnsOf [.frameRead d c Config.regRhr, .finish .received] ++ rest
    hostOp := [.frameRead d c Config.regRhr, .finish .received] }

section
variable {s : State} {d : Device} {c : Chan} (hsel : selectedSet s = [])
include hsel

/-- UART_RECVCHAR up to its decision. -/
theorem recvchar_level_runs {n : Nat} {t : State} {ws : List Word} {w : Word} {rest : List Turn} (hh : s.halted = false)
    (hb : s.spiBusy = false) (hq : s.spiSeq = []) (hc : s.devConfigured.get d = true)
    (hw : encode (.uartRecvchar d.bits c) = .host w) (hws : s.hostWords = w :: ws)
    (ha : s.agenda = turnsOf (recvCalls d c) ++ rest) (hrun : runsTo n (afterLevelFrame d c ws rest s) t) :
    runsTo (7 + n) s t := by
  have hframe := call_runs (s := blockedBefore (recvCalls d c) ws s.devConfigured s)
    (k := .frameRead d c Config.regRxlvl) ⟨hh, rfl, hq, hsel⟩ rfl rfl ha
  have hall : runsTo (7 + n) (blockedBefore (recvCalls d c) ws s.devConfigured s) t := runsTo_append hframe hrun
  rw [Nat.add_comm] at hall ⊢
  exact runsTo_issue hh hb hq hw rfl hws (fun _ => exec_uartRecvchar_starts hb hc) ha (List.cons_ne_nil _ _) hall

variable (ws : List Word) (rest : List Turn) {lvl b : Byte} (hm : s.options.bridgeModel = .testDouble)
  (hlvl : Memory.read s.bridgeStore (cellAddr d c Config.regRxlvl) = some lvl)
include hm hlvl

theorem afterLevelFrame_spiRx : (afterLevelFrame d c ws rest s).spiRx = some lvl :=
  congrArg some (frameReply_of_cell hm hsel hlvl)

/-- UART_RECVCHAR from its decision on, for a level but 0. -/
theorem recvchar_byte_runs (hh : s.halted = false) (hne : lvl ≠ 0#8)
    (hbyte : Memory.read s.bridgeStore (cellAddr d c Config.regRhr) = some b) :
    ∃ t, runsTo 9 (afterLevelFrame d c ws rest s) t ∧ t.results = s.results ++ [.byte b] ∧ t.spiBusy = false ∧
      t.spiLog.length = s.spiLog.length + 12 ∧ t.faults = s.faults := by
  have hrun := procedure_runs (s := afterDecision d c ws rest s) (calls := [.frameRead d c Config.regRhr])
    (k := .received) (rest := rest) ⟨hh, rfl, rfl, hsel⟩ (List.forall_mem_singleton.2 rfl) rfl rfl
  have hreply : frameReply d (cmdByte .read c Config.regRhr) (afterDecision d c ws rest s) = b := by
    refine frameReply_of_cell hm hsel ?_
    exact (congrArg (Memory.read · _) (afterFrame_read_store _ hsel)).trans hbyte
  exact ⟨_, runsTo_call hh rfl rfl rfl rfl
    (runCalls_testLevel_nonzero _ (afterLevelFrame_spiRx hsel ws rest hm hlvl) hne) hrun,
    congrArg (s.results ++ [.byte ·]) hreply, rfl, List.length_append.trans (congrArg (· + 6) List.length_append), rfl⟩

end

/-- Settles O46: the level frame, then the decision, then for a level but 0 the second frame. -/
theorem recvcharReturnsTheSentinelOrTheByte : Obligations.RecvcharReturnsTheSentinelOrTheByte := by
  intro s d c lvl b rest ws w hm hh hb hq hsel hc hlvl hbyte hw hws ha
  refine ⟨fun hz => ?_, fun hne => ?_⟩
  · subst hz
    have hrx := afterLevelFrame_spiRx hsel ws rest hm hlvl
    exact ⟨_, recvchar_level_runs hsel hh hb hq hc hw hws ha
      (runsTo_call hh rfl rfl rfl rfl (runCalls_testLevel_zero _ hrx) (runsTo_zero _)), rfl, rfl, List.length_append, rfl⟩
  · obtain ⟨t, hrun, hres⟩ := recvchar_byte_runs hsel ws rest hm hlvl hh hne hbyte
    exact ⟨t, recvchar_level_runs hsel hh hb hq hc hw hws ha hrun, hres⟩

end Sys2Proof.Machine
end


section
/-! UART_INIT from its word to its return: what it records, what it puts on the log and what it leaves in the cells
(spec/43_uart_configurator.md R233 to R249). -/

namespace Sys2Proof.Machine

/-! ### Its run -/

/-- The calls of a supported UART_INIT but its return. -/
def uartInitPlain (d : Device) (div : Half) : List HostCall :=
  allChannels.flatMap (channelCalls d div) ++ [.markConfigured d]

theorem uartInitCalls_eq (d : Device) (div : Half) : uartInitCalls d div = uartInitPlain d div ++ [.finish .initOk] :=
  (List.append_assoc _ [HostCall.markConfigured d] _).symm

theorem uartInitPlain_isPlain (d : Device) (div : Half) : ∀ k ∈ uartInitPlain d div, k.isPlain = true := by
  refine List.forall_mem_append.2 ⟨fun k hk => ?_, List.forall_mem_singleton.2 rfl⟩
  obtain ⟨c, -, hk⟩ := List.mem_flatMap.1 hk
  exact channelCalls_forall (P := fun k => k.isPlain = true) d c div (fun _ _ => rfl) (fun _ => rfl) rfl k hk

/-- The block before the first call of a supported UART_INIT. -/
def uartInitBlocked (d : Device) (div : Half) (ws : List Word) (s : State) : State :=
  blockedBefore (uartInitCalls d div) ws (s.devConfigured.set d false) s

/-- The block after a supported UART_INIT. -/
def afterUartInit (d : Device) (div : Half) (ws : List Word) (rest : List Turn) (s : State) : State :=
  endProcedure .initOk
    { afterCalls (uartInitPlain d div) (uartInitBlocked d div ws s) with agenda := rest, spiSeq := [] }

theorem uartInit_runs {s : State} {d : Device} {rate : Rate} {div : Half} {rest : List Turn} {ws : List Word} {w : Word}
    (hh : s.halted = false) (hb : s.spiBusy = false) (hq : s.spiSeq = []) (hsel : selectedSet s = [])
    (hr : baudLookup rate = some div) (hw : encode (.uartInit d.bits rate) = .host w) (hws : s.hostWords = w :: ws)
    (ha : s.agenda = turnsOf (uartInitCalls d div) ++ rest) :
    runsTo (turnsOf (uartInitCalls d div)).length s (afterUartInit d div ws rest s) := by
  have hi : ∀ ag, exec (.uartInit d.bits rate) { s with agenda := ag, hostWords := ws } =
      .next (beginProcedure (uartInitCalls d div)
        { s with agenda := ag, hostWords := ws, devConfigured := s.devConfigured.set d false }) :=
    fun _ => exec_uartInit_starts hb hr
  exact operation_runs (k := .initOk) (plain := uartInitPlain d div) hh hb hq hw rfl hws hi (uartInitCalls_eq d div) hsel
    (uartInitPlain_isPlain d div) ha

/-! ### What it records (R233) -/

/-- What every call of a list keeps, the list keeps. -/
theorem afterCalls_keep {P : State → Prop} {calls : List HostCall} (h : ∀ k ∈ calls, ∀ s, P s → P (afterCall k s))
    {s : State} (hs : P s) : P (afterCalls calls s) := by
  induction calls generalizing s with
  | nil => exact hs
  | cons k calls ih =>
    obtain ⟨hk, hcalls⟩ := List.forall_mem_cons.1 h
    exact ih hcalls (hk s hs)

/-- What a write frame of the device, a delay and the record of a divisor keep, the channels keep. -/
theorem afterCalls_channels_keep {P : State → Prop} {d : Device} {div : Half}
    (hw : ∀ c r v s, P s → P (afterFrame d (cmdByte .write c r) v s)) (hd : ∀ id s, P s → P (logDelay id s))
    (hr : ∀ c s, P s → P (afterCall (.recordDivisor d c div) s)) (cs : List Chan) {s : State} (hs : P s) :
    P (afterCalls (cs.flatMap (channelCalls d div)) s) := by
  refine afterCalls_keep (fun k hk => ?_) hs
  obtain ⟨c, -, hk⟩ := List.mem_flatMap.1 hk
  exact channelCalls_forall (P := fun k => ∀ s, P s → P (afterCall k s)) d c div (hw c) hd (hr c) k hk

section
variable (cs : List Chan) (d : Device) (div : Half) (s : State)

theorem afterCalls_channels_devConfigured :
    (afterCalls (cs.flatMap (channelCalls d div)) s).devConfigured = s.devConfigured :=
  afterCalls_channels_keep (P := fun t => t.devConfigured = s.devConfigured) (fun _ _ _ _ h => h) (fun _ _ h => h)
    (fun _ _ h => h) cs rfl

theorem afterCalls_channels_chDivisor_other {e : Device} (he : e ≠ d) :
    (afterCalls (cs.flatMap (channelCalls d div)) s).chDivisor.get e = s.chDivisor.get e :=
  afterCalls_channels_keep (P := fun t => t.chDivisor.get e = s.chDivisor.get e) (fun _ _ _ _ h => h) (fun _ _ h => h)
    (fun _ _ h => (perDevice_get_set_other _ _ _ _ he).trans h) cs rfl

/-- A recorded divisor stays: a later record of it writes the same value. -/
theorem afterCalls_channels_chDivisor_of_eq {c : Chan} (h : (s.chDivisor.get d).get c = some div) :
    ((afterCalls (cs.flatMap (channelCalls d div)) s).chDivisor.get d).get c = some div := by
  refine afterCalls_channels_keep (P := fun t => (t.chDivisor.get d).get c = some div) (fun _ _ _ _ h => h)
    (fun _ _ h => h) (fun c' t h => ?_) cs h
  change ((t.chDivisor.set d _).get d).get c = some div
  rw [perDevice_get_set]
  by_cases hc : c = c'
  · rw [hc, perChannel_get_set]
  · rw [perChannel_get_set_other _ _ _ _ hc, h]

theorem afterCalls_channelCalls_chDivisor (c : Chan) :
    ((afterCalls (channelCalls d div c) s).chDivisor.get d).get c = some div := by
  rw [channelCalls, afterCalls_append]
  exact (congrArg (PerChannel.get · c) (perDevice_get_set _ _ _)).trans (perChannel_get_set _ _ _)

variable {cs} in
theorem afterCalls_channels_chDivisor {c : Chan} (hc : c ∈ cs) :
    ((afterCalls (cs.flatMap (channelCalls d div)) s).chDivisor.get d).get c = some div := by
  obtain ⟨before, after, rfl⟩ := List.append_of_mem hc
  rw [List.flatMap_append, List.flatMap_cons, afterCalls_append, afterCalls_append]
  exact afterCalls_channels_chDivisor_of_eq after d div _ (afterCalls_channelCalls_chDivisor d div _ c)

end

theorem afterCalls_uartInitPlain (d : Device) (div : Half) (s : State) : afterCalls (uartInitPlain d div) s =
    afterCall (.markConfigured d) (afterCalls (allChannels.flatMap (channelCalls d div)) s) :=
  afterCalls_append _ _ s

theorem mem_allChannels (c : Chan) : c ∈ allChannels := by
  revert c; decide

/-- Settles O42: its frames leave the records alone, and each channel's last call records the divisor. -/
theorem uartInitRunsToItsEnd : Obligations.UartInitRunsToItsEnd := by
  intro s d rate div rest ws w hh hb hq hsel hr hw hws ha
  have hrun := uartInit_runs hh hb hq hsel hr hw hws ha
  rw [afterUartInit, afterCalls_uartInitPlain] at hrun
  have hbus := onlyTheBus_afterCalls (allChannels.flatMap (channelCalls d div)) (uartInitBlocked d div ws s)
  have hconf := afterCalls_channels_devConfigured allChannels d div (uartInitBlocked d div ws s)
  have hdiv := fun c => afterCalls_channels_chDivisor d div (uartInitBlocked d div ws s) (mem_allChannels c)
  have hother := fun e => afterCalls_channels_chDivisor_other allChannels d div (uartInitBlocked d div ws s) (e := e)
  generalize afterCalls (allChannels.flatMap (channelCalls d div)) (uartInitBlocked d div ws s) = u at *
  have hresults : u.results = s.results := (congrArg State.results hbus :)
  have hfaults : u.faults = s.faults := (congrArg State.faults hbus :)
  have hi2c : SameI2c s u := by
    rw [hbus]
    exact sameI2c_refl s
  refine ⟨_, hrun, rfl, congrArg State.hostWords hbus, congrArg (· ++ [HostResult.initOk]) hresults, rfl, rfl,
    (congrArg selectedSet hbus).trans hsel, perDevice_get_set _ _ _, hdiv, fun e he => ⟨?_, hother e he⟩, hi2c, hfaults⟩
  calc (u.devConfigured.set d true).get e
    _ = u.devConfigured.get e := perDevice_get_set_other _ _ _ _ he
    _ = (s.devConfigured.set d false).get e := congrArg (PerDevice.get · e) hconf
    _ = s.devConfigured.get e := perDevice_get_set_other _ _ _ _ he

/-! ### What it puts on the log (R234 to R245) -/

/-- The log entries of a call, received bytes left out. -/
def callEntries : HostCall → List SpiEvent
  | .frameWrite d c r v => frameEntries d (cmdByte .write c r) v
  | .delay id => [.delay id]
  | _ => []

/-- A list of calls adds its entries, the received bytes whatever they were, to the log. -/
theorem afterCalls_spiLog {calls : List HostCall} (h : ∀ k ∈ calls, ¬ k.isReadFrame = true) (s : State) :
    ∃ l, (afterCalls calls s).spiLog = s.spiLog ++ l ∧ l.map SpiEvent.sent = calls.flatMap callEntries := by
  induction calls generalizing s with
  | nil => exact ⟨[], (List.append_nil _).symm, rfl⟩
  | cons k calls ih =>
    obtain ⟨hread, hcalls⟩ := List.forall_mem_cons.1 h
    have hk : ∃ l, (afterCall k s).spiLog = s.spiLog ++ l ∧ l.map SpiEvent.sent = callEntries k := by
      cases k with
      | frameWrite d c r v => exact ⟨_, rfl, rfl⟩
      | frameRead d c r => exact absurd rfl hread
      | delay id => exact ⟨_, rfl, rfl⟩
      | _ => exact ⟨[], (List.append_nil _).symm, rfl⟩
    obtain ⟨l, hlog, hsent⟩ := hk
    obtain ⟨m, hlog', hsent'⟩ := ih hcalls (afterCall k s)
    refine ⟨l ++ m, ?_, ?_⟩
    · rw [afterCalls_cons, hlog', hlog, List.append_assoc]
    · rw [List.map_append, hsent, hsent', List.flatMap_cons]

theorem channelCalls_flatMap_callEntries (d : Device) (c : Chan) (div : Half) :
    (channelCalls d div c).flatMap callEntries = bringUpEntries d c div := by
  simp [channelCalls, channelBringUp, bringUpEntries, writeAll, List.flatMap_append, List.flatMap_map, callEntries,
    divLow, divHigh]

theorem uartInitPlain_flatMap_callEntries (d : Device) (div : Half) : (uartInitPlain d div).flatMap callEntries =
    bringUpEntries d 0#2 div ++ bringUpEntries d 1#2 div ++ bringUpEntries d 2#2 div ++ bringUpEntries d 3#2 div := by
  simp [uartInitPlain, allChannels, callEntries, channelCalls_flatMap_callEntries]

/-! ### What it leaves in the cells (R189, R240) -/

/-- What a list of register writes leaves in the cell of register `r` that held `v`. -/
def lastWrite (r : Reg) (v : Option Byte) (l : List (Reg × Byte)) : Option Byte :=
  l.foldl (fun v p => if p.1 = r then some p.2 else v) v

theorem lastWrite_append (r : Reg) (v : Option Byte) (l m : List (Reg × Byte)) :
    lastWrite r v (l ++ m) = lastWrite r (lastWrite r v l) m := List.foldl_append

theorem lastWrite_of_notMem {r : Reg} {l : List (Reg × Byte)} (h : r ∉ l.map Prod.fst) (v : Option Byte) :
    lastWrite r v l = v := by
  induction l generalizing v with
  | nil => rfl
  | cons p l ih =>
    obtain ⟨hp, hl⟩ := not_or.1 (mt List.mem_cons.2 h)
    rw [lastWrite, List.foldl_cons, if_neg (Ne.symm hp)]
    exact ih hl v

/-- What a call leaves in the cell at `a` that held `v`. -/
def cellAfter (a : Nat) (v : Option Byte) : HostCall → Option Byte
  | .frameWrite d c r b => if cellAddr d c r = a then some b else v
  | _ => v

theorem read_afterCall {s : State} (hm : s.options.bridgeModel = .testDouble) (hsel : selectedSet s = [])
    (k : HostCall) (a : Nat) :
    Memory.read (afterCall k s).bridgeStore a = cellAfter a (Memory.read s.bridgeStore a) k := by
  cases k with
  | frameWrite d c r v =>
    by_cases ha : cellAddr d c r = a
    · subst ha
      rw [cellAfter, if_pos rfl, afterCall, afterFrame_write_store hm hsel, Memory.read_write_same]
    · rw [cellAfter, if_neg ha]
      exact afterFrame_write_other v hsel (Ne.symm ha)
  | frameRead d c r => exact congrArg (Memory.read · a) (afterFrame_read_store _ hsel)
  | _ => rfl

theorem read_afterCalls {s : State} (hm : s.options.bridgeModel = .testDouble) (hsel : selectedSet s = [])
    (calls : List HostCall) (a : Nat) :
    Memory.read (afterCalls calls s).bridgeStore a = calls.foldl (cellAfter a) (Memory.read s.bridgeStore a) := by
  induction calls generalizing s with
  | nil => rfl
  | cons k calls ih =>
    have hbus := onlyTheBus_afterCall k s
    have hm' : (afterCall k s).options.bridgeModel = .testDouble := (congrArg (·.options.bridgeModel) hbus).trans hm
    have hsel' : selectedSet (afterCall k s) = [] := (congrArg selectedSet hbus).trans hsel
    rw [afterCalls_cons, ih hm' hsel', read_afterCall hm hsel, List.foldl_cons]

section
variable (d : Device) (c : Chan) (r : Reg) (div : Half) (v : Option Byte)

theorem foldl_cellAfter_channelCalls : (channelCalls d div c).foldl (cellAfter (cellAddr d c r)) v =
    lastWrite r v (bringUpWrites cfgWrites div) := by
  have hcell : ∀ r', cellAddr d c r' = cellAddr d c r ↔ r' = r :=
    fun r' => ⟨fun h => (cellAddr_inj _ _ _ _ _ _ h).2.2, fun h => h ▸ rfl⟩
  simp [channelCalls, channelBringUp, bringUpWrites, writesAfterDivisor, writeAll, lastWrite, List.foldl_append,
    List.foldl_map, cellAfter, hcell, divLow, divHigh]

theorem foldl_cellAfter_channelCalls_other {c' : Chan} (hc : c' ≠ c) :
    (channelCalls d div c').foldl (cellAfter (cellAddr d c r)) v = v := by
  have hcell : ∀ r', cellAddr d c' r' ≠ cellAddr d c r := fun r' h => hc (cellAddr_inj _ _ _ _ _ _ h).2.1
  simp [channelCalls, channelBringUp, writeAll, List.foldl_append, List.foldl_map, cellAfter, hcell]

theorem foldl_cellAfter_channels_other {cs : List Chan} (hc : c ∉ cs) :
    (cs.flatMap (channelCalls d div)).foldl (cellAfter (cellAddr d c r)) v = v := by
  induction cs with
  | nil => rfl
  | cons c' cs ih =>
    obtain ⟨hne, hcs⟩ := not_or.1 (mt List.mem_cons.2 hc)
    rw [List.flatMap_cons, List.foldl_append, foldl_cellAfter_channelCalls_other d c r div v (Ne.symm hne), ih hcs]

theorem foldl_cellAfter_uartInitPlain : (uartInitPlain d div).foldl (cellAfter (cellAddr d c r)) v =
    lastWrite r v (bringUpWrites cfgWrites div) := by
  obtain ⟨before, after, hall⟩ := List.append_of_mem (mem_allChannels c)
  have hnodup : (before ++ c :: after).Nodup := hall ▸ (by decide : allChannels.Nodup)
  obtain ⟨hc, -⟩ := List.nodup_cons.1 (List.nodup_middle.1 hnodup)
  obtain ⟨hbefore, hafter⟩ := not_or.1 (mt List.mem_append.2 hc)
  rw [uartInitPlain, hall, List.foldl_append, List.flatMap_append, List.flatMap_cons, List.foldl_append,
    List.foldl_append, foldl_cellAfter_channels_other d c r div v hbefore, foldl_cellAfter_channelCalls,
    foldl_cellAfter_channels_other d c r div _ hafter]
  rfl

end

theorem regDivMsb_ne_regDivLsb : regDivMsb ≠ Config.regDivLsb := by
  unfold regDivMsb
  split
  · intro h
    have := congrArg BitVec.toNat h
    bv_omega
  · assumption

/-- A cell of a channel after UART_INIT: the low divisor byte, unless it is written again (R249). -/
theorem lastWrite_regDivLsb (div : Half) (v : Option Byte) (h : Config.regDivLsb ∉ writtenAfterDivisor cfgWrites) :
    lastWrite Config.regDivLsb v (bringUpWrites cfgWrites div) = some (divLow div) := by
  rw [bringUpWrites, lastWrite_append, lastWrite_append, lastWrite_of_notMem h]
  simp [lastWrite, regDivMsb_ne_regDivLsb, divLow]

theorem lastWrite_regDivMsb (div : Half) (v : Option Byte) (h : regDivMsb ∉ writtenAfterDivisor cfgWrites) :
    lastWrite regDivMsb v (bringUpWrites cfgWrites div) = some (divHigh div) := by
  rw [bringUpWrites, lastWrite_append, lastWrite_append, lastWrite_of_notMem h]
  simp [lastWrite, divHigh]

/-- A UART_INIT touches no cell of another device. -/
theorem read_afterCalls_uartInitPlain_other (d : Device) (div : Half) {a : Nat} (ha : ∀ c r, a ≠ cellAddr d c r)
    {s : State} (hsel : selectedSet s = []) :
    Memory.read (afterCalls (uartInitPlain d div) s).bridgeStore a = Memory.read s.bridgeStore a := by
  have hmark : ∀ t, (afterCall (.markConfigured d) t).bridgeStore = t.bridgeStore := fun _ => rfl
  rw [afterCalls_uartInitPlain, hmark]
  have hkeep := afterCalls_channels_keep (d := d) (div := div)
    (P := fun t => selectedSet t = [] ∧ Memory.read t.bridgeStore a = Memory.read s.bridgeStore a)
    (fun c r v _ ht => ⟨ht.1, (afterFrame_write_other v ht.1 (ha c r)).trans ht.2⟩) (fun _ _ h => h) (fun _ _ h => h)
    allChannels ⟨hsel, rfl⟩
  exact hkeep.2

/-- Settles O60: the log and the cells are those of the calls in order. -/
theorem uartInitLogsTheElevenSteps : Obligations.UartInitLogsTheElevenSteps := by
  intro s d rate div rest ws w hh hb hq hsel hr hw hws ha
  have hrun := uartInit_runs hh hb hq hsel hr hw hws ha
  rw [afterUartInit] at hrun
  have hread : ∀ k ∈ uartInitPlain d div, ¬ k.isReadFrame = true := by
    obtain ⟨-, -, -, hall, -⟩ := bringUpFrameCounts d div
    rw [uartInitCalls_eq, List.countP_eq_zero] at hall
    exact (List.forall_mem_append.1 hall).1
  obtain ⟨l, hlog, hsent⟩ := afterCalls_spiLog hread (uartInitBlocked d div ws s)
  have hcells := fun hm c r => (read_afterCalls (s := uartInitBlocked d div ws s) hm hsel (uartInitPlain d div)
    (cellAddr d c r)).trans (foldl_cellAfter_uartInitPlain d c r div _)
  have hother := fun a ha => read_afterCalls_uartInitPlain_other d div (a := a) ha (s := uartInitBlocked d div ws s) hsel
  generalize afterCalls (uartInitPlain d div) (uartInitBlocked d div ws s) = u at *
  exact ⟨_, l, hrun, hlog, hsent.trans (uartInitPlain_flatMap_callEntries d div),
    fun hm => ⟨hcells hm, fun c => ⟨fun h => (hcells hm c _).trans (lastWrite_regDivLsb div _ h),
      fun h => (hcells hm c _).trans (lastWrite_regDivMsb div _ h)⟩⟩, hother⟩

end Sys2Proof.Machine
end
